-- ==== Sys2Proof/Word.lean ====
section
/-! DEFINITION. The two word types of the block (00_scope.md section 5.1): bytes and 16-bit words, both unsigned, and
the sequence of bytes that a payload is. -/

namespace Sys2Proof

/-- A byte: an unsigned integer in 0..255, bit 0 the least significant. -/
abbrev Byte := BitVec 8

/-- A word16: an unsigned integer in 0..65535, bit 0 the least significant. -/
abbrev Word16 := BitVec 16

/-- A payload: the unescaped bytes of a frame without its two trailer bytes (rule R16). -/
abbrev Payload := List Byte

end Sys2Proof
end

