-- ==== Sys2Proof/Config.lean ====
section
/-! DEFINITION. What is fixed for one block: the wired constants of rule R6, and the parameters of rule R7, which are
set before reset and changed by no step (rule R9 b). The spec leaves no value free, so this file has no free value. -/

namespace Sys2Proof

/-- `SENTINEL`, the frame boundary (rule R6). -/
def sentinel : Byte := 0x7E#8

/-- `ESCAPE_MARKER`, the one-byte prefix of an escape pair (rule R6). -/
def escapeMarker : Byte := 0x7D#8

/-- `ESCAPE_XOR`, what an escaped byte is XORed with (rule R6). -/
def escapeXor : Byte := 0x20#8

/-- `CRC_POLY` (rule R6). -/
def crcPoly : Word16 := 0x1021#16

/-- `CRC_INIT` (rule R6). -/
def crcInit : Word16 := 0x0000#16

/-- `TRAILER_LEN`, in bytes (rule R6). -/
def trailerLen : Nat := 2

/-- `TRAILER_MODE` (rules R7, R125): how the two trailer bytes become the value that is compared. -/
inductive TrailerMode where
  /-- Mode A: the second trailer byte alone, zero-extended (rule R126). -/
  | a
  /-- Mode B: the little-endian 16-bit combine (rule R127). -/
  | b
  deriving DecidableEq, Repr

/-- The organisation of the state between two bytes (rule R84). -/
inductive Form where
  /-- The normative reference form: raw bytes are stored and unescaped at the sentinel (rules R73, R74). -/
  | reference
  /-- The admitted streaming form: bytes are unescaped as they arrive (rules R56, R84). -/
  | streaming
  deriving DecidableEq, Repr

/-- The parameters of one block. A capacity `none` is the spec's `unbounded`. -/
structure Config where
  /-- `TRAILER_MODE` (rule R7). -/
  trailerMode : TrailerMode
  /-- `ABUF_CAP` (rule R7): the longest run of non-sentinel bytes that has a meaning. -/
  abufCap : Option Nat
  /-- `OUTQ_CAP` (rule R7): how many payloads OUT holds before an emission waits. -/
  outqCap : Option Nat
  /-- Which of the two organisations of rule R84 the block has (assumption log 2). -/
  form : Form
  deriving DecidableEq, Repr

/-- The defaults of rule R7, in the normative organisation. -/
def Config.default : Config :=
  { trailerMode := .a, abufCap := none, outqCap := none, form := .reference }

end Sys2Proof
end

