-- ==== Sys2Proof/Syntax.lean ====
section
/-! DEFINITION. The symbols of the block: one constructor for each mnemonic of spec/opcode_table.json (rules R54, R55;
rows of one mnemonic are one operation, 30_encoding.md section 2), and the contexts in which a byte is decoded. -/

namespace Sys2Proof

/-- The five operations that a byte can stand for. `flag` and `append` are decoded when a byte arrives (level 1);
`xlit`, `escm` and `lit` are decoded in the Unescape pass (level 2) and, in the streaming form, on arrival (rule R56). -/
inductive Instr where
  /-- `FLAG`, the sentinel 0x7E (rule R73). -/
  | flag
  /-- `APPEND`, any other byte on arrival (rule R74). -/
  | append (b : Byte)
  /-- `XLIT`, the operand of an escape marker (rule R102); `b` is the byte as it was received. -/
  | xlit (b : Byte)
  /-- `ESCM`, the escape marker 0x7D (rule R103). -/
  | escm
  /-- `LIT`, any other byte while not escaping (rule R104). -/
  | lit (b : Byte)
  deriving DecidableEq, Repr

/-- The decode level of rule R52. -/
inductive Level where
  | arrival
  | unescape
  deriving DecidableEq, Repr

/-- The level at which the opcode table lists an instruction. -/
def Instr.level : Instr → Level
  | .flag => .arrival
  | .append _ => .arrival
  | .xlit _ => .unescape
  | .escm => .unescape
  | .lit _ => .unescape

/-- What a byte's meaning depends on beside the byte: the level, and the flag `ESC` (rules R54 to R56). -/
inductive Context where
  /-- Level 1: the flag is not looked at (rule R54). -/
  | arrival
  /-- Level 2 with `ESC == true` (rule R55). -/
  | passEscaping
  /-- Level 2 with `ESC == false` (rule R55). -/
  | passClear
  /-- The merged map with `ESC == true` (rule R56). -/
  | streamEscaping
  /-- The merged map with `ESC == false` (rule R56). -/
  | streamClear
  deriving DecidableEq, Repr

/-- The context of the Unescape pass for a value of the flag. -/
def Context.pass (esc : Bool) : Context :=
  if esc then .passEscaping else .passClear

/-- The context of the streaming form for a value of the flag. -/
def Context.stream (esc : Bool) : Context :=
  if esc then .streamEscaping else .streamClear

end Sys2Proof
end

