-- ==== Sys2Proof/WellFormed.lean ====
section
/-! DEFINITION. Which terms of `Instr` some byte stands for, alone (`Instr.wf`) and in a given context (`Instr.fits`). -/

namespace Sys2Proof

/-- A term is well formed when its operand is in the value set its mnemonic has in rules R54 and R55. -/
def Instr.wf : Instr → Bool
  | .flag => true
  | .append b => b != sentinel
  | .xlit _ => true
  | .escm => true
  | .lit b => b != escapeMarker

/-- A term fits a context when some byte decodes to it there (rules R54, R55, R56). -/
def Instr.fits : Context → Instr → Bool
  | .arrival, .flag => true
  | .arrival, .append b => b != sentinel
  | .arrival, .xlit _ => false
  | .arrival, .escm => false
  | .arrival, .lit _ => false
  | .passEscaping, .flag => false
  | .passEscaping, .append _ => false
  | .passEscaping, .xlit _ => true
  | .passEscaping, .escm => false
  | .passEscaping, .lit _ => false
  | .passClear, .flag => false
  | .passClear, .append _ => false
  | .passClear, .xlit _ => false
  | .passClear, .escm => true
  | .passClear, .lit b => b != escapeMarker
  | .streamEscaping, .flag => true
  | .streamEscaping, .append _ => false
  | .streamEscaping, .xlit b => b != sentinel
  | .streamEscaping, .escm => false
  | .streamEscaping, .lit _ => false
  | .streamClear, .flag => true
  | .streamClear, .append _ => false
  | .streamClear, .xlit _ => false
  | .streamClear, .escm => true
  | .streamClear, .lit b => b != escapeMarker && b != sentinel

/-- The value of the flag after a level 2 symbol (rules R102 to R104); the level 1 symbols leave it to their own rules. -/
def Instr.escAfter (esc : Bool) : Instr → Bool
  | .flag => esc
  | .append _ => esc
  | .xlit _ => false
  | .escm => true
  | .lit _ => false

/-- A sequence of level 2 symbols that one raw frame can stand for, from a given value of the flag (rule R58). -/
def legalRun : Bool → List Instr → Bool
  | _, [] => true
  | esc, i :: is => i.fits (.pass esc) && legalRun (i.escAfter esc) is

end Sys2Proof
end

