-- ==== Sys2Proof/Decode.lean ====
section
/-! DEFINITION. Decoding (rules R51 to R56), total on every byte in every context since no encoding is illegal or
reserved (rule R62); the opcode table's rows; the encoder; and the reference stuffing function of rule R66. -/

namespace Sys2Proof

/-- The three classes of rule R53. -/
inductive ByteClass where
  | flag
  | esc
  | data
  deriving DecidableEq, Repr

/-- `Class(b)` (rule R53). -/
def byteClass (b : Byte) : ByteClass :=
  if b = sentinel then .flag else if b = escapeMarker then .esc else .data

/-- Level 1 (rule R54): the byte is compared with the sentinel only. -/
def decodeArrival (b : Byte) : Instr :=
  if b = sentinel then .flag else .append b

/-- Level 2 (rule R55): the flag is tested first, then the byte is compared with the escape marker. -/
def decodePass (esc : Bool) (b : Byte) : Instr :=
  if esc then .xlit b else if b = escapeMarker then .escm else .lit b

/-- The merged map of the streaming form (rule R56): the sentinel test comes before the escape context. -/
def decodeStream (esc : Bool) (b : Byte) : Instr :=
  match byteClass b with
  | .flag => .flag
  | .esc => if esc then .xlit b else .escm
  | .data => if esc then .xlit b else .lit b

/-- The instruction that a byte stands for in a context. -/
def decodeIn : Context → Byte → Instr
  | .arrival, b => decodeArrival b
  | .passEscaping, b => decodePass true b
  | .passClear, b => decodePass false b
  | .streamEscaping, b => decodeStream true b
  | .streamClear, b => decodeStream false b

/-- Why a sequence of bytes holds no symbol. -/
inductive DecodeError where
  /-- There is no byte to decode; every byte that is there decodes (rule R62). -/
  | noSymbol
  deriving DecidableEq, Repr

/-- The first symbol of a sequence of bytes and the bytes after it: every symbol is one byte (rule R51). -/
def decodeFirst (c : Context) : List Byte → Except DecodeError (Instr × List Byte)
  | [] => .error .noSymbol
  | b :: rest => .ok (decodeIn c b, rest)

/-- The level 2 symbols of a raw frame, from a given value of the flag (rules R55, R58). -/
def decodeRun : Bool → List Byte → List Instr
  | _, [] => []
  | esc, b :: bs => decodePass esc b :: decodeRun ((decodePass esc b).escAfter esc) bs

/-- The byte that stands for an instruction (format `SYM8`, rule R51; values by rules R54 and R55). -/
def encode : Instr → Byte
  | .flag => sentinel
  | .append b => b
  | .xlit b => b
  | .escm => escapeMarker
  | .lit b => b

/-- The bytes that stand for a sequence of instructions. -/
def encodeRun (is : List Instr) : List Byte :=
  is.map encode

/-! ## The rows of the opcode table -/

/-- The five mnemonics of the opcode table. -/
inductive Mnemonic where
  | FLAG
  | APPEND
  | XLIT
  | ESCM
  | LIT
  deriving DecidableEq, Repr

/-- The mnemonic of an instruction. -/
def Instr.mnemonic : Instr → Mnemonic
  | .flag => .FLAG
  | .append _ => .APPEND
  | .xlit _ => .XLIT
  | .escm => .ESCM
  | .lit _ => .LIT

/-- One row of spec/opcode_table.json: its level and context, and the bits it fixes. -/
structure Row where
  mnemonic : Mnemonic
  context : Context
  pattern : Byte
  mask : Byte
  deriving DecidableEq, Repr

/-- The byte has the bits that the row fixes. -/
def Row.hits (r : Row) (b : Byte) : Bool :=
  (b &&& r.mask) == r.pattern

/-- Level 1 rows (rule R54). -/
def arrivalRows : List Row :=
  [⟨.FLAG, .arrival, 0x7E, 0xFF⟩, ⟨.APPEND, .arrival, 0x80, 0x80⟩, ⟨.APPEND, .arrival, 0x00, 0xC0⟩,
   ⟨.APPEND, .arrival, 0x40, 0xE0⟩, ⟨.APPEND, .arrival, 0x60, 0xF0⟩, ⟨.APPEND, .arrival, 0x70, 0xF8⟩,
   ⟨.APPEND, .arrival, 0x78, 0xFC⟩, ⟨.APPEND, .arrival, 0x7C, 0xFE⟩, ⟨.APPEND, .arrival, 0x7F, 0xFF⟩]

/-- Level 2 rows (rule R55). -/
def passRows : List Row :=
  [⟨.XLIT, .passEscaping, 0x00, 0x00⟩, ⟨.ESCM, .passClear, 0x7D, 0xFF⟩, ⟨.LIT, .passClear, 0x80, 0x80⟩,
   ⟨.LIT, .passClear, 0x00, 0xC0⟩, ⟨.LIT, .passClear, 0x40, 0xE0⟩, ⟨.LIT, .passClear, 0x60, 0xF0⟩,
   ⟨.LIT, .passClear, 0x70, 0xF8⟩, ⟨.LIT, .passClear, 0x78, 0xFC⟩, ⟨.LIT, .passClear, 0x7E, 0xFE⟩,
   ⟨.LIT, .passClear, 0x7C, 0xFF⟩]

/-- The 19 rows. -/
def opcodeTable : List Row :=
  arrivalRows ++ passRows

/-- The mnemonics of the rows of a context that a byte hits. -/
def rowsHit (c : Context) (b : Byte) : List Mnemonic :=
  (opcodeTable.filter fun r => r.context == c && r.hits b).map Row.mnemonic

/-! ## The reference stuffing function -/

/-- The raw bytes a conforming sender writes for one byte (rule R66). -/
def stuffByte (b : Byte) : List Byte :=
  if b = sentinel ∨ b = escapeMarker then [escapeMarker, b ^^^ escapeXor] else [b]

/-- `Stuff(s)` (rule R66): not part of the block; it says what encoding a sequence means. -/
def stuff (s : List Byte) : List Byte :=
  s.flatMap stuffByte

/-! ## The host's numbering of the table's words -/

/-- The instruction the decoder reads, in the context of a byte that arrives at the block (level 1), from the 8-bit
word `w`. Level 2 has no words of its own: its rows are the same byte values in another context (assumption log 3). -/
def decodeTableWord (nbits w : Nat) : Option Instr :=
  if nbits = 8 ∧ w < 256 then some (decodeArrival (BitVec.ofNat 8 w)) else none

end Sys2Proof
end

