-- ==== Sys2Proof/Machine/State.lean ====
section
/-! DEFINITION. The state of the block (rule R8) with the parameters it was given (rule R7), what the host has queued at
the ports and taken from them (rules R32 to R35, R156, R158), the two stop reasons, and the state after reset (rule R27). -/

namespace Sys2Proof.Machine

/-- A diagnostic record (rules R17, R139). -/
structure Diag where
  /-- `CRC16(payload)`. -/
  computed : Word16
  /-- `DecodeTrailer(trailer)`. -/
  received : Word16
  /-- The payload of the frame, possibly empty. -/
  payload : Payload
  deriving DecidableEq, Repr

/-- What leaves the block at a port: a record on DIAG or a payload on OUT. -/
inductive Event where
  | record (d : Diag)
  | payload (p : Payload)
  deriving DecidableEq, Repr

/-- The payload an event carries to OUT. -/
def Event.payload? : Event → Option Payload
  | .record _ => none
  | .payload p => some p

/-- The record an event carries to DIAG. -/
def Event.record? : Event → Option Diag
  | .record d => some d
  | .payload _ => none

/-- What the host can do to the block: the agents of rule R11 and the two operations of rule R146. -/
inductive HostMove where
  /-- The transport presents a byte on IN (rule R33). -/
  | byte (b : Byte)
  /-- A consumer, known by its number, pops OUT (rules R34, R45). -/
  | popOut (consumer : Nat)
  /-- The sink pops DIAG (rule R35). -/
  | popDiag
  /-- Teardown (rule R158). -/
  | teardown
  /-- Reset (rule R156). -/
  | reset
  deriving DecidableEq, Repr

/-- Why a step stops with a fault: never. "The byte step is a total function of (state, byte) with no fault outcome"
(rule R135), so this type has no constructor. -/
inductive Fault where
  deriving DecidableEq, Repr

/-- Why a run has no meaning. All are safe: the model stops where a device does something the spec does not say. -/
inductive Refusal where
  /-- Raised by an arm of exec for an instruction that has no meaning yet; no arm raises it. Safe. -/
  | notModelled (mnemonic : String)
  /-- Raised by a non-sentinel byte when the current run already holds `ABUF_CAP` bytes (rule R166). Safe. -/
  | abufOverflow
  /-- Raised by a byte presented after teardown (rules R158, R162). Safe. -/
  | feedAfterTeardown
  /-- Raised by a teardown while a byte step waits for room in OUT (rules R158, R162). Safe. -/
  | closeDuringFeed
  /-- Raised by a reset while a byte step waits for room in OUT (rule R157). Safe. -/
  | resetInsideByteStep
  deriving DecidableEq, Repr

/-- The state. The first group is the block's own; the second is what is fixed before reset; the third is the host's. -/
structure State where
  /-- `ABUF`, the raw frame so far, still escaped (rule R14). Empty throughout in the streaming form. -/
  abuf : List Byte
  /-- `ESC`, the escape flag (rule R15). -/
  esc : Bool
  /-- The output of the Unescape pass (rule R101), live only inside a sentinel's step in the reference form; in the
  streaming form the store `UBUF` of rule R84. -/
  ubuf : List Byte
  /-- `OUTQ`, every payload emitted, oldest first (rule R16). -/
  outq : List Payload
  /-- `DIAGQ`, every record notified, oldest first (rule R17). -/
  diagq : List Diag
  /-- `POS`, the count of bytes consumed (rule R18). -/
  pos : Nat
  /-- The streaming form's count of the bytes of the current run, which a finite `ABUF_CAP` bounds (assumption log 2). -/
  rawLen : Nat
  /-- The merged trace of rule R46: records and payloads in the order the block pushed them. -/
  events : List Event
  /-- The parameters, which no step changes (rule R9 b). -/
  cfg : Config
  /-- What the host is about to do, next move first (assumption log 1). -/
  agenda : List HostMove
  /-- The payloads popped from OUT, oldest first, each with the consumer that took it (rules R34, R45). -/
  outTaken : List (Nat × Payload)
  /-- The records popped from DIAG, oldest first (rule R35). -/
  diagTaken : List Diag
  /-- The block has been torn down (rule R158). -/
  torn : Bool
  /-- The merged traces of the executions that a reset ended, oldest first (rule R157). -/
  past : List (List Event)
  deriving DecidableEq, Repr

/-- The state after reset of a block with given parameters (rules R27, R156). -/
def State.resetWith (c : Config) : State where
  abuf := []
  esc := false
  ubuf := []
  outq := []
  diagq := []
  pos := 0
  rawLen := 0
  events := []
  cfg := c
  agenda := []
  outTaken := []
  diagTaken := []
  torn := false
  past := []

/-- The machine right after reset, with the parameters at their defaults and nothing presented at any port. -/
def State.reset : State :=
  State.resetWith Config.default

end Sys2Proof.Machine
end

