-- ==== Sys2Proof/Machine/Operands.lean ====
section
/-! DEFINITION. The operand forms: the escaped operand (rule R59), the two halves of a word16, the split of a frame into
payload and trailer (rules R57, R90), and the assembly of `received` from the trailer (rules R61, R125 to R127). -/

namespace Sys2Proof.Machine

/-- `zext_16(b)` (00_scope.md section 5.1). -/
def zext16 (b : Byte) : Word16 :=
  b.setWidth 16

/-- `hi ‖ lo` (00_scope.md section 5.1). -/
def cat16 (hi lo : Byte) : Word16 :=
  hi ++ lo

/-- Bits 7..0 of a word16. -/
def lowByte (w : Word16) : Byte :=
  w.extractLsb' 0 8

/-- Bits 15..8 of a word16. -/
def highByte (w : Word16) : Byte :=
  w.extractLsb' 8 8

/-- The value of the pair `7D x` (rule R59). -/
def escapedOperand (x : Byte) : Byte :=
  x ^^^ escapeXor

/-- The trailer: `t0` is `trailer[0]`, the earlier byte, and `t1` is `trailer[1]` (rule R90). -/
structure Trailer where
  t0 : Byte
  t1 : Byte
  deriving DecidableEq, Repr

/-- Deliver's steps 2 and 3 (rules R89, R90): nothing for a frame shorter than a trailer, else the payload and the
trailer. The default of `getD` is not reached, since the test has shown both indices to be below the length. -/
def splitFrame (frame : List Byte) : Option (Payload × Trailer) :=
  if frame.length < trailerLen then none
  else some (frame.take (frame.length - trailerLen),
    { t0 := frame.getD (frame.length - 2) 0, t1 := frame.getD (frame.length - 1) 0 })

/-- `DecodeTrailer(trailer)` (rule R125). -/
def decodeTrailer : TrailerMode → Trailer → Word16
  | .a, t => zext16 t.t1
  | .b, t => cat16 t.t1 t.t0

end Sys2Proof.Machine
end

