-- ==== Sys2Proof/Machine/Flags.lean ====
section
/-! DEFINITION. The block's one flag `ESC` as the Unescape pass runs it (rules R15, R101 to R104), and its one transient
condition, the outcome of the comparison (rule R129), which is not latched (10_state.md section 6). -/

namespace Sys2Proof.Machine

/-- The running state of the Unescape pass: the output so far and the flag (rule R101). -/
structure Pass where
  out : List Byte
  esc : Bool
  deriving DecidableEq, Repr

/-- Where every pass starts (rule R101). -/
def Pass.start : Pass :=
  { out := [], esc := false }

/-- `XLIT` (rule R102): append the escaped operand, clear the flag. -/
def Pass.xlit (p : Pass) (b : Byte) : Pass :=
  { out := p.out ++ [escapedOperand b], esc := false }

/-- `ESCM` (rule R103): append nothing, set the flag. -/
def Pass.escm (p : Pass) : Pass :=
  { p with esc := true }

/-- `LIT` (rule R104): append the byte unchanged; the flag, which is clear, stays as it is. -/
def Pass.lit (p : Pass) (b : Byte) : Pass :=
  { p with out := p.out ++ [b] }

/-- The comparison of Deliver's step 6 (rule R129): all 16 bits take part, in both modes. -/
def mismatch (computed received : Word16) : Bool :=
  computed != received

end Sys2Proof.Machine
end

