-- ==== Sys2Proof/Machine/Ops.lean ====
section
/-! DEFINITION. The storage operations of rule R32, the raising of the block's one reported condition (rule R144: one
record is appended, nothing is saved, and control goes on; by rule R145 there is no return), the operations of the two
ends of a byte step, and the host's operations at the ports. -/

namespace Sys2Proof.Machine

/-- The state's view of the Unescape pass: its output store and the flag. -/
def State.pass (s : State) : Pass :=
  { out := s.ubuf, esc := s.esc }

/-- The output store and the flag, written together. -/
def State.withPass (s : State) (p : Pass) : State :=
  { s with ubuf := p.out, esc := p.esc }

/-- `ABUF` append (rule R74). -/
def State.appendRaw (s : State) (b : Byte) : State :=
  { s with abuf := s.abuf ++ [b] }

/-- Deliver's step 8 (rule R95): nothing of the frame remains in either organisation. -/
def State.clearFrame (s : State) : State :=
  { s with abuf := [], esc := false, ubuf := [], rawLen := 0 }

/-- `emit(p)` (rule R16). -/
def State.emit (s : State) (p : Payload) : State :=
  { s with outq := s.outq ++ [p], events := s.events ++ [.payload p] }

/-- `notify ChecksumMismatch(computed, received, payload)` (rules R17, R144). -/
def State.notify (s : State) (d : Diag) : State :=
  { s with diagq := s.diagq ++ [d], events := s.events ++ [.record d] }

/-- A byte has been consumed (rule R18). -/
def State.consumed (s : State) : State :=
  { s with pos := s.pos + 1 }

/-- A byte of the current run has been consumed by the streaming form (rule R84, last line of `stream_step`). -/
def State.consumedStream (s : State) : State :=
  { s with pos := s.pos + 1, rawLen := s.rawLen + 1 }

/-- The host's remaining moves. -/
def State.withAgenda (s : State) (ms : List HostMove) : State :=
  { s with agenda := ms }

/-- A store of `n` items is full for a capacity; `none` is `unbounded` (rule R7). -/
def atCapacity : Option Nat → Nat → Bool
  | none, _ => false
  | some cap, n => decide (cap ≤ n)

/-- How many payloads OUT holds: emitted and not yet taken (rule R34). -/
def State.outHeld (s : State) : Nat :=
  s.outq.length - s.outTaken.length

/-- OUT has no room for another payload (rule R47). -/
def State.outFull (s : State) : Bool :=
  atCapacity s.cfg.outqCap s.outHeld

/-- A consumer pops OUT: it takes the oldest payload not yet taken; if there is none, nothing happens (rules R32, R34). -/
def State.popOut (s : State) (consumer : Nat) : State :=
  match s.outq[s.outTaken.length]? with
  | none => s
  | some p => { s with outTaken := s.outTaken ++ [(consumer, p)] }

/-- The sink pops DIAG: it takes the oldest record not yet taken; if there is none, nothing happens (rules R32, R35). -/
def State.popDiag (s : State) : State :=
  match s.diagq[s.diagTaken.length]? with
  | none => s
  | some d => { s with diagTaken := s.diagTaken ++ [d] }

/-- Teardown (rule R158): what `ABUF` holds is lost, and what OUT and DIAG hold can still be drained. DESIGN CHOICE: a
teardown of a block already torn down is accepted and leaves it torn down (assumption log 6). -/
def State.tearDown (s : State) : State :=
  { s.clearFrame with torn := true }

/-- The consumers see OUT closed: the block has been torn down and OUT has been drained (rule R158). -/
def State.seenClosed (s : State) : Bool :=
  s.torn && s.outHeld == 0

/-- A reset by the host (rules R156, R157): a new execution begins with empty traces, and the trace of the one it ends
is kept as it stood. The parameters and the host's further moves are not the block's to reset. -/
def State.hostReset (s : State) : State :=
  { State.resetWith s.cfg with agenda := s.agenda, past := s.past ++ [s.events] }

/-- A byte presented on IN ahead of everything else the host has queued. -/
def State.presentByte (s : State) (b : Byte) : State :=
  s.withAgenda (.byte b :: s.agenda)

/-- An outcome's next state, changed; a stop stays as it is. -/
def onNext (f : State → State) : Host.Outcome State Fault Refusal → Host.Outcome State Fault Refusal
  | .next s => .next (f s)
  | .fault r => .fault r
  | .refused r => .refused r

end Sys2Proof.Machine
end

