-- ==== Sys2Proof/Machine/Crc.lean ====
section
/-! DEFINITION. `CRC16` (43_crc16.md): its accumulator is a transient of one Deliver (rule R20), so no state holds it. -/

namespace Sys2Proof.Machine

/-- `Round(acc)` (rule R115): the test is on bit 15 before the shift; the 16-bit width is the mask. -/
def crcRound (acc : Word16) : Word16 :=
  if acc.getLsbD 15 then (acc <<< 1) ^^^ crcPoly else acc <<< 1

/-- A number of rounds, one after another. -/
def crcRounds : Nat → Word16 → Word16
  | 0, acc => acc
  | n + 1, acc => crcRounds n (crcRound acc)

/-- `ByteStep(acc, b)` (rule R114): the byte into bits 15..8, then eight rounds. -/
def crcByte (acc : Word16) (b : Byte) : Word16 :=
  crcRounds 8 (acc ^^^ (zext16 b <<< 8))

/-- The loop of `CRC16` from a given accumulator (rule R120). -/
def crcFrom (acc : Word16) (bytes : List Byte) : Word16 :=
  bytes.foldl crcByte acc

/-- `CRC16(payload)` (rule R113). -/
def crc16 (payload : List Byte) : Word16 :=
  crcFrom crcInit payload

end Sys2Proof.Machine
end

