-- ==== Sys2Proof/Machine/Unescape.lean ====
section
/-! DEFINITION. `Unescape` (42_unescape.md), and the meanings of the level 2 symbols `XLIT`, `ESCM` and `LIT`. A level 2
symbol acts on the output store and the flag of a pass (rule R101); it consumes nothing from IN, and what the streaming
form adds when it takes one straight from IN stands in Machine/Feed.lean. -/

namespace Sys2Proof.Machine

/-- One iteration of the loop of rule R101, the function `u` of rule R106: the byte is decoded at level 2 in the context
of the flag and its symbol applied. -/
def Pass.step (p : Pass) (b : Byte) : Pass :=
  match decodePass p.esc b with
  | .flag => p
  | .append _ => p
  | .xlit x => p.xlit x
  | .escm => p.escm
  | .lit x => p.lit x

/-- The pass over some bytes from where it stands. -/
def Pass.over (p : Pass) (bytes : List Byte) : Pass :=
  bytes.foldl Pass.step p

/-- `Unescape(buffer)` (rule R101). -/
def unescape (buffer : List Byte) : Pass :=
  Pass.start.over buffer

/-- `XLIT` (rule R102). Its condition `ESC == true` is the context in which a byte decodes to it (rule R55). -/
def execXlit (b : Byte) (s : State) : Host.Outcome State Fault Refusal :=
  .next (s.withPass (s.pass.xlit b))

/-- `ESCM` (rule R103). -/
def execEscm (s : State) : Host.Outcome State Fault Refusal :=
  .next (s.withPass s.pass.escm)

/-- `LIT` (rule R104). -/
def execLit (b : Byte) (s : State) : Host.Outcome State Fault Refusal :=
  .next (s.withPass (s.pass.lit b))

end Sys2Proof.Machine
end

