-- ==== Sys2Proof/Machine/Deliver.lean ====
section
/-! DEFINITION. `Deliver` (41_deliver.md): its steps on the state, and `FrameResult`, the same as a pure function of the
raw frame (rule R96) with the verdict of rule R133. -/

namespace Sys2Proof.Machine

/-- The classes of frames (rule R133): no hardware encoding, not stored, not output. -/
inductive Verdict where
  | undersized
  | emptyPayload
  | deliveredMatch
  | deliveredMismatch
  deriving DecidableEq, Repr

/-- What a frame gives: the record, the payload and the verdict (rule R96). -/
structure FrameResult where
  diag : Option Diag
  out : Option Payload
  verdict : Verdict
  deriving DecidableEq, Repr

/-- The record of a frame, should the comparison fail (rules R91, R92, R139). -/
def frameDiag (m : TrailerMode) (payload : Payload) (t : Trailer) : Diag :=
  { computed := crc16 payload, received := decodeTrailer m t, payload := payload }

/-- The comparison fails for the frame of a record (rule R129). -/
def Diag.isMismatch (d : Diag) : Bool :=
  mismatch d.computed d.received

/-- `FrameResult` of an unescaped frame (rule R96, from its third line on). -/
def frameResultOf (m : TrailerMode) (frame : List Byte) : FrameResult :=
  match splitFrame frame with
  | none => { diag := none, out := none, verdict := .undersized }
  | some (payload, t) =>
    { diag := if (frameDiag m payload t).isMismatch then some (frameDiag m payload t) else none
      out := if payload.isEmpty then none else some payload
      verdict :=
        if payload.isEmpty then .emptyPayload
        else if (frameDiag m payload t).isMismatch then .deliveredMismatch else .deliveredMatch }

/-- `FrameResult(buf)` (rule R96). -/
def frameResult (m : TrailerMode) (buf : List Byte) : FrameResult :=
  frameResultOf m (unescape buf).out

/-- Deliver's step 1 (rule R88): in the reference form the pass runs over the whole of `ABUF`; in the streaming form the
frame has been unescaped as it arrived (rule R84). -/
def State.openFrame (s : State) : State :=
  match s.cfg.form with
  | .reference => s.withPass (unescape s.abuf)
  | .streaming => s

/-- Deliver's step 6 (rule R93). -/
def State.report (s : State) (d : Diag) : State :=
  if d.isMismatch then s.notify d else s

/-- Deliver's step 7 (rule R94). -/
def State.forward (s : State) (payload : Payload) : State :=
  if payload.isEmpty then s else s.emit payload

/-- Deliver's steps 2 to 8 on the unescaped frame, in the order of rule R87: the report precedes the emission. -/
def State.deliverFrame (s : State) (frame : List Byte) : State :=
  match splitFrame frame with
  | none => s.clearFrame
  | some (payload, t) =>
    ((s.report (frameDiag s.cfg.trailerMode payload t)).forward payload).clearFrame

/-- `Deliver()` (rule R87). -/
def State.deliver (s : State) : State :=
  s.openFrame.deliverFrame s.openFrame.ubuf

/-- Deliver must emit (rule R94), so a full OUT makes it wait (rule R47). -/
def State.mustEmit (s : State) : Bool :=
  (frameResultOf s.cfg.trailerMode s.openFrame.ubuf).out.isSome

/-- A sentinel's step cannot complete until a consumer makes room (rule R47). -/
def State.blocked (s : State) : Bool :=
  s.outFull && s.mustEmit

end Sys2Proof.Machine
end

