-- ==== Sys2Proof/Machine/Arrival.lean ====
section
/-! DEFINITION. The meanings of the level 1 symbols: `FLAG` (rule R73) and `APPEND` (rule R74). -/

namespace Sys2Proof.Machine

/-- `FLAG` (rule R73): Deliver, then count the byte. When Deliver must emit and OUT is full the step does not complete:
the state is as before until a consumer makes room (rule R47). -/
def execFlag (s : State) : Host.Outcome State Fault Refusal :=
  if s.blocked then .next s else .next s.deliver.consumed

/-- `APPEND` (rule R74): the byte is stored raw; a full `ABUF` gives the step no meaning (rule R166). -/
def execAppend (b : Byte) (s : State) : Host.Outcome State Fault Refusal :=
  if atCapacity s.cfg.abufCap s.abuf.length then .refused .abufOverflow
  else .next (s.appendRaw b).consumed

end Sys2Proof.Machine
end

