-- ==== Sys2Proof/Machine/Dispatch.lean ====
section
/-! DEFINITION. One arm for each instruction. -/

namespace Sys2Proof.Machine

def exec (i : Instr) (s : State) : Host.Outcome State Fault Refusal :=
  match i with
  | .flag => Sys2Proof.Machine.execFlag s
  | .append b => Sys2Proof.Machine.execAppend b s
  | .xlit b => Sys2Proof.Machine.execXlit b s
  | .escm => Sys2Proof.Machine.execEscm s
  | .lit b => Sys2Proof.Machine.execLit b s

end Sys2Proof.Machine
end

