-- ==== Sys2Proof/Machine/Feed.lean ====
section
/-! DEFINITION. The byte step (rules R13, R40, R84), Feed (rule R75) and the host's moves, each as the block meets it. -/

namespace Sys2Proof.Machine

/-- The context in which the next byte from IN is decoded: the arrival map in the reference form, the merged map in the
streaming form (rules R52, R56). -/
def State.context (s : State) : Context :=
  match s.cfg.form with
  | .reference => .arrival
  | .streaming => .stream s.esc

/-- What a byte step adds to its symbol's own meaning: a level 2 symbol, which only the streaming form takes straight
from IN, is counted here (rule R84); the level 1 symbols count themselves (rules R73, R74). -/
def countSymbol : Level → State → State
  | .arrival, s => s
  | .unescape, s => s.consumedStream

/-- The streaming form has already taken `ABUF_CAP` bytes of the current run, and the symbol is one more (rule R166). -/
def State.streamOverflow (s : State) : Level → Bool
  | .arrival => false
  | .unescape => atCapacity s.cfg.abufCap s.rawLen

/-- The byte step for a decoded symbol. -/
def symbolStep (i : Instr) (s : State) : Host.Outcome State Fault Refusal :=
  if s.streamOverflow i.level then .refused .abufOverflow
  else onNext (countSymbol i.level) (exec i s)

/-- The byte step: the byte is decoded in the state's context and its symbol runs; after teardown a byte has no meaning
(rules R158, R162). -/
def byteStep (b : Byte) (s : State) : Host.Outcome State Fault Refusal :=
  if s.torn then .refused .feedAfterTeardown else symbolStep (decodeIn s.context b) s

/-- The byte is accepted on IN but its step cannot complete (rule R47). -/
def State.waitsOn (s : State) (b : Byte) : Bool :=
  !s.torn && decide (decodeIn s.context b = .flag) && s.blocked

/-- `Feed(chunk)` (rule R75): the bytes in order. With the next state come the bytes still to be fed: none when the call
has returned, the rest of the chunk when a full OUT holds the caller (rules R47, R164). -/
def feed : List Byte → State → Host.Outcome (State × List Byte) Fault Refusal
  | [], s => .next (s, [])
  | b :: bs, s =>
    if s.waitsOn b then .next (s, b :: bs)
    else
      match byteStep b s with
      | .next t => feed bs t
      | .fault r => .fault r
      | .refused r => .refused r

/-- The host's first move that is not a byte on IN, and the moves without it. -/
def firstOtherMove : List HostMove → Option (HostMove × List HostMove)
  | [] => none
  | .byte b :: ms => (firstOtherMove ms).map fun r => (r.1, .byte b :: r.2)
  | .popOut c :: ms => some (.popOut c, ms)
  | .popDiag :: ms => some (.popDiag, ms)
  | .teardown :: ms => some (.teardown, ms)
  | .reset :: ms => some (.reset, ms)

/-- A step while a byte step waits for room: IN accepts no further byte (rule R47), consumers and the sink go on, and a
teardown (rule R162) or a reset (rule R157) may not come inside a byte step. -/
def waitingStep (s : State) : Host.Outcome State Fault Refusal :=
  match firstOtherMove s.agenda with
  | none => .next s
  | some (.byte _, _) => .next s
  | some (.popOut c, ms) => .next ((s.withAgenda ms).popOut c)
  | some (.popDiag, ms) => .next (s.withAgenda ms).popDiag
  | some (.teardown, _) => .refused .closeDuringFeed
  | some (.reset, _) => .refused .resetInsideByteStep

/-- One step: the host's next move meets the block. While nothing comes the block keeps its state (rule R146). -/
def hostStep (s : State) : Host.Outcome State Fault Refusal :=
  match s.agenda with
  | [] => .next s
  | .byte b :: ms => if s.waitsOn b then waitingStep s else byteStep b (s.withAgenda ms)
  | .popOut c :: ms => .next ((s.withAgenda ms).popOut c)
  | .popDiag :: ms => .next (s.withAgenda ms).popDiag
  | .teardown :: ms => .next (s.withAgenda ms).tearDown
  | .reset :: ms => .next (s.withAgenda ms).hostReset

end Sys2Proof.Machine
end

