-- ==== Sys2Proof/Machine/Step.lean ====
section
/-! DEFINITION. The step of the machine, and how the host places an instruction where the step fetches it. -/

namespace Sys2Proof.Machine

/-- One step (Machine/Feed.lean says what it is). -/
def step (s : State) : Host.Outcome State Fault Refusal :=
  hostStep s

/-- The state with the byte `w` next on IN, which is where the block takes its next symbol from. -/
def State.withFetchWord (s : State) (_nbits w : Nat) : State :=
  s.presentByte (BitVec.ofNat 8 w)

end Sys2Proof.Machine
end

