-- ==== Sys2Proof/Machine/Frames.lean ====
section
/-! DEFINITION. The spec's shorthand for byte streams (rule R67), and runs of symbols; none of it is part of the block. -/

namespace Sys2Proof.Machine

/-- `FRAME_RAW(p, t0, t1)` (rule R67). -/
def frameRaw (p : Payload) (t0 t1 : Byte) : List Byte :=
  sentinel :: (stuff (p ++ [t0, t1]) ++ [sentinel])

/-- `FRAME_B(p)` (rule R67): the frame whose trailer matches in mode B. -/
def frameB (p : Payload) : List Byte :=
  frameRaw p (lowByte (crc16 p)) (highByte (crc16 p))

/-- A stream put together from closed runs and an unterminated tail (rules R57, R78). -/
def joinRuns (runs : List (List Byte)) (tail : List Byte) : List Byte :=
  runs.flatMap (fun r => r ++ [sentinel]) ++ tail

/-- Symbols executed one after another, stopping at the first that does not give a next state. -/
def runSymbols : List Instr → State → Host.Outcome State Fault Refusal
  | [], s => .next s
  | i :: is, s =>
    match exec i s with
    | .next t => runSymbols is t
    | .fault r => .fault r
    | .refused r => .refused r

end Sys2Proof.Machine
end

