-- ==== Sys2Proof/Safety.lean ====
section
/-! DEFINITION. What a sound state is (the invariants of 10_state.md section 5 and what the queues promise), and the
relations that the claims about two runs are stated with. -/

namespace Sys2Proof

/-- Neither capacity is finite (the defaults of rule R7). -/
def Config.Unbounded (c : Config) : Prop :=
  c.abufCap = none ∧ c.outqCap = none

end Sys2Proof

namespace Sys2Proof.Machine

/-- A diagnostic record says what rules R17, R93 and R139 let it say under a trailer mode. -/
structure Diag.Sound (m : TrailerMode) (d : Diag) : Prop where
  /-- `computed` is the CRC of the payload it carries. -/
  computed_eq : d.computed = crc16 d.payload
  /-- The comparison failed. -/
  differs : d.computed ≠ d.received
  /-- In mode A `received` is below 0x0100. -/
  small : m = .a → d.received.toNat < 256

/-- The invariant of the block and of its ports. -/
structure State.Inv (s : State) : Prop where
  /-- INV1 (rule R23). -/
  no_sentinel : sentinel ∉ s.abuf
  /-- INV2 (rule R24), with the pass's output store empty between bytes (rule R19). -/
  reference_idle : s.cfg.form = .reference → s.esc = false ∧ s.ubuf = [] ∧ s.rawLen = 0
  /-- The streaming form keeps nothing raw, and what it has unescaped is no longer than what it has taken (rule R111). -/
  streaming_short : s.cfg.form = .streaming → s.abuf = [] ∧ s.ubuf.length + s.esc.toNat ≤ s.rawLen
  /-- INV3 (rule R25). -/
  payload_nonempty : ∀ p ∈ s.outq, p ≠ []
  /-- Every record is a true one (rule R17). -/
  records_sound : ∀ d ∈ s.diagq, d.Sound s.cfg.trailerMode
  /-- The payloads of the merged trace are `OUTQ` (rule R46). -/
  payloads_traced : s.outq = s.events.filterMap Event.payload?
  /-- The records of the merged trace are `DIAGQ` (rule R46). -/
  records_traced : s.diagq = s.events.filterMap Event.record?
  /-- The consumers have taken the oldest payloads, each once and in order (rule R45). -/
  out_fifo : s.outTaken.map Prod.snd <+: s.outq
  /-- The sink has taken the oldest records, each once and in order (rule R35). -/
  diag_fifo : s.diagTaken <+: s.diagq
  /-- No run is longer than a finite `ABUF_CAP` (rule R166). -/
  run_bounded : ∀ n, s.cfg.abufCap = some n → s.abuf.length ≤ n ∧ s.rawLen ≤ n
  /-- OUT never holds more than a finite `OUTQ_CAP` (rule R47). -/
  out_bounded : ∀ n, s.cfg.outqCap = some n → s.outHeld ≤ n

/-- Two outcomes of the same kind, next states related and stop reasons equal. -/
def OutcomesMatch (R : State → State → Prop) :
    Host.Outcome State Fault Refusal → Host.Outcome State Fault Refusal → Prop
  | .next s, .next t => R s t
  | .fault a, .fault b => a = b
  | .refused a, .refused b => a = b
  | _, _ => False

/-- Two states that differ at most in `TRAILER_MODE`, in `DIAGQ` and in what has left DIAG (rule R132). -/
structure AgreeOutsideDiag (s t : State) : Prop where
  abuf : s.abuf = t.abuf
  esc : s.esc = t.esc
  ubuf : s.ubuf = t.ubuf
  outq : s.outq = t.outq
  pos : s.pos = t.pos
  rawLen : s.rawLen = t.rawLen
  abufCap : s.cfg.abufCap = t.cfg.abufCap
  outqCap : s.cfg.outqCap = t.cfg.outqCap
  form : s.cfg.form = t.cfg.form
  agenda : s.agenda = t.agenda
  outTaken : s.outTaken = t.outTaken
  torn : s.torn = t.torn
  payloads : s.events.filterMap Event.payload? = t.events.filterMap Event.payload?
  past : s.past.map (List.filterMap Event.payload?) = t.past.map (List.filterMap Event.payload?)

/-- A block in the reference form and one in the streaming form, between bytes of the same run (rule R84 a). -/
structure StreamMatches (s t : State) : Prop where
  form : s.cfg.form = .reference
  cfg : t.cfg = { s.cfg with form := .streaming }
  pass : t.pass = unescape s.abuf
  raw : t.rawLen = s.abuf.length
  idle : s.esc = false ∧ s.ubuf = [] ∧ s.rawLen = 0
  noRaw : t.abuf = []
  outq : s.outq = t.outq
  diagq : s.diagq = t.diagq
  pos : s.pos = t.pos
  events : s.events = t.events
  agenda : s.agenda = t.agenda
  outTaken : s.outTaken = t.outTaken
  diagTaken : s.diagTaken = t.diagTaken
  torn : s.torn = t.torn
  past : s.past = t.past

/-- The unescaped frame that a sentinel would close now: the whole of `ABUF` unescaped in the reference form (rule R88),
`UBUF` in the streaming form (rule R84). -/
def State.frameNow (s : State) : List Byte :=
  if s.cfg.form = .reference then (unescape s.abuf).out else s.ubuf

end Sys2Proof.Machine
end

