-- ==== Sys2Proof/Certificates/Slice0/Obligations.lean ====
section
/-! DEFINITION. The statements for the provers. Where a statement says the model's own choice or one of the spec's marked
decisions, its docstring names it. Every quantifier over states ranges over all states unless a hypothesis says less; the
parameters are in the state, so every statement holds for both trailer modes and every capacity that it does not fix. -/

open Sys2Proof Sys2Proof.Machine

/-! ## Decoding -/

/-- Each row of the opcode table is the decoder's: in every context of the table exactly one row has the byte, and it
names the decoded symbol (30_encoding.md section 2). -/
def Obligations.ExactlyOneRowNamesEachSymbol : Prop :=
  ∀ c b, c = .arrival ∨ c = .passEscaping ∨ c = .passClear → rowsHit c b = [(decodeIn c b).mnemonic]

/-- Words written out from 30_encoding.md: `FLAG` 0x7E, `APPEND` 0x7D and 0x80 on arrival; `XLIT` 0x7D and 0x00, `ESCM`
0x7D, `LIT` 0x5E in the pass; in the streaming form 0x7E closes a frame also after a marker. -/
def Obligations.WrittenOutWordsDecode : Prop :=
  decodeIn .arrival 0b01111110#8 = .flag ∧ decodeIn .arrival 0b01111101#8 = .append 0x7D#8 ∧
  decodeIn .arrival 0b10000000#8 = .append 0x80#8 ∧ decodeIn .passEscaping 0b01111101#8 = .xlit 0x7D#8 ∧
  decodeIn .passEscaping 0b00000000#8 = .xlit 0x00#8 ∧ decodeIn .passClear 0b01111101#8 = .escm ∧
  decodeIn .passClear 0b01011110#8 = .lit 0x5E#8 ∧ decodeIn .streamEscaping 0b01111110#8 = .flag

/-- Decode and encode agree, for every instruction with every operand in every context it fits, and for whole raw
frames at level 2, where the flag carries the context from one symbol to the next. -/
def Obligations.DecodeAndEncodeAgree : Prop :=
  (∀ c i, Instr.fits c i = true → decodeIn c (encode i) = i) ∧
  (∀ c b, Instr.fits c (decodeIn c b) = true ∧ encode (decodeIn c b) = b) ∧
  (∀ esc is, legalRun esc is = true → decodeRun esc (encodeRun is) = is) ∧
  (∀ esc bytes, legalRun esc (decodeRun esc bytes) = true ∧ encodeRun (decodeRun esc bytes) = bytes)

/-- A step runs the decoded instruction. In the reference form the step on a presented byte is exec of the arrival
symbol on the state without that byte; in the streaming form it is exec of the merged map's symbol, and a level 2 symbol
is then counted. The premises: the block is not torn down, the byte need not wait for room in OUT, and in the streaming
form the run is not yet at a finite `ABUF_CAP` (assumption log 1 and 2). -/
def Obligations.StepRunsTheDecodedSymbol : Prop :=
  ∀ (s : State) (b : Byte) (ms : List HostMove),
    s.agenda = .byte b :: ms → s.torn = false → s.waitsOn b = false →
    (s.cfg.form = .reference → step s = exec (decodeIn .arrival b) (s.withAgenda ms)) ∧
    (s.cfg.form = .streaming → (b = sentinel ∨ atCapacity s.cfg.abufCap s.rawLen = false) →
      step s =
        if b = sentinel then exec .flag (s.withAgenda ms)
        else onNext State.consumedStream (exec (decodeIn (.stream s.esc) b) (s.withAgenda ms)))

/-! ## The five symbols -/

/-- Rule R74: the byte is stored as it came and counted, nothing else changes; at a full `ABUF` the step has no meaning. -/
def Obligations.AppendStoresTheRawByte : Prop :=
  ∀ (s : State) (b : Byte),
    ((∀ n, s.cfg.abufCap = some n → s.abuf.length < n) →
      exec (.append b) s = .next { s with abuf := s.abuf ++ [b], pos := s.pos + 1 }) ∧
    (∀ n, s.cfg.abufCap = some n → s.abuf.length = n → exec (.append b) s = .refused .abufOverflow)

/-- What a sentinel's step does (40_feed.md section 1, 41_deliver.md sections 1 and 2, 60_exceptions.md section 3),
whenever it need not wait for room in OUT. The frame is cut here into payload and two trailer bytes by hand, not by the
model's split. That the streaming form does the same is 40_feed.md section 5, which the spec's decision D12 admits and
which is here a parameter by the model's choice (assumption log 2); that `rawLen` and the pass's output end empty rests on
log 2 and 16, what OUT holds on log 13, and the merged trace on log 17. -/
def Obligations.FlagDeliversTheFrame : Prop :=
  ∀ s : State, (s.outFull = true → s.frameNow.length < 3) →
    ∃ t, exec .flag s = .next t ∧
      t.abuf = [] ∧ t.esc = false ∧ t.ubuf = [] ∧ t.rawLen = 0 ∧ t.pos = s.pos + 1 ∧
      (t.cfg = s.cfg ∧ t.agenda = s.agenda ∧ t.outTaken = s.outTaken ∧ t.diagTaken = s.diagTaken ∧
        t.torn = s.torn ∧ t.past = s.past) ∧
      (s.frameNow.length < 2 → t.outq = s.outq ∧ t.diagq = s.diagq ∧ t.events = s.events) ∧
      (∀ payload t0 t1, s.frameNow = payload ++ [t0, t1] →
        let d : Diag := { computed := crc16 payload
                          received := decodeTrailer s.cfg.trailerMode { t0 := t0, t1 := t1 }
                          payload := payload }
        let records := if d.computed ≠ d.received then [d] else []
        let payloads := if payload.length > 0 then [payload] else []
        t.diagq = s.diagq ++ records ∧ t.outq = s.outq ++ payloads ∧
          t.events = s.events ++ records.map Event.record ++ payloads.map Event.payload)

/-- Back-pressure (20_memory.md section 7; the policy is the spec's decision D7): with OUT full at a finite capacity of at
least 1, a sentinel that must emit waits with the whole state unchanged, IN accepts no further byte, the sink's pops go
on, and once a consumer has taken one payload, however many bytes are queued before its pop, the same sentinel emits its
payload behind those already there, so nothing is dropped. That `DIAGQ` too is unchanged meanwhile is the model's
deduction (assumption log 7), what OUT holds is another (log 13), and the host's moves as a list and the answer of exec
while the sentinel waits are its choices (log 1 and 9). -/
def Obligations.FullOutDelaysAndNeverDrops : Prop :=
  ∀ (s : State) (n c : Nat) (bytes : List Byte) (ms : List HostMove) (payload : Payload) (t0 t1 : Byte),
    s.torn = false → s.cfg.outqCap = some (n + 1) → s.outHeld = n + 1 →
    s.frameNow = payload ++ [t0, t1] → payload ≠ [] →
    exec .flag s = .next s ∧
    (s.agenda = .byte sentinel :: bytes.map HostMove.byte → step s = .next s) ∧
    (s.agenda = .byte sentinel :: (bytes.map HostMove.byte ++ .popDiag :: ms) →
      step s = .next { s with agenda := .byte sentinel :: (bytes.map HostMove.byte ++ ms)
                              diagTaken := s.diagTaken ++ s.diagq[s.diagTaken.length]?.toList }) ∧
    (s.agenda = .byte sentinel :: (bytes.map HostMove.byte ++ .popOut c :: ms) →
      ∃ p t u, s.outq[s.outTaken.length]? = some p ∧ step s = .next t ∧
        t = { s with agenda := .byte sentinel :: (bytes.map HostMove.byte ++ ms), outTaken := s.outTaken ++ [(c, p)] } ∧
        step t = .next u ∧ u.agenda = bytes.map HostMove.byte ++ ms ∧
        u.outq = s.outq ++ [payload] ∧ u.abuf = [] ∧ u.pos = s.pos + 1)

/-- With `OUTQ_CAP` 0 no emission ever completes, which is the model's deduction from 20_memory.md section 7 (assumption
log 13): whatever pops and bytes come, after any number of steps the sentinel that must emit is still next on IN, the
frame is still held, and nothing has been emitted, recorded or counted. The host's moves as a list, the answer of exec
while the sentinel waits, and the record that does not show meanwhile are the model's too (log 1, 9 and 7). -/
def Obligations.ZeroCapacityNeverEmits : Prop :=
  ∀ (s : State) (moves : List HostMove) (payload : Payload) (t0 t1 : Byte),
    s.torn = false → s.cfg.outqCap = some 0 → s.frameNow = payload ++ [t0, t1] → payload ≠ [] →
    exec .flag s = .next s ∧
    (s.agenda = .byte sentinel :: moves → HostMove.teardown ∉ moves → HostMove.reset ∉ moves →
      ∀ k, ∃ t, Sys2Proof.core.run k s = .next t ∧ (∃ rest, t.agenda = .byte sentinel :: rest) ∧
        t.frameNow = s.frameNow ∧ t.abuf = s.abuf ∧ t.pos = s.pos ∧
        t.outq = s.outq ∧ t.diagq = s.diagq ∧ t.events = s.events)

/-- Rule R102: while escaping every byte is the operand of the marker, whatever it is; its bit 5 is inverted, the other
seven bits are not, and the flag is cleared. Nothing else changes. -/
def Obligations.XlitAppendsWithBitFiveInverted : Prop :=
  ∀ (b : Byte) (s : State),
    decodeIn .passEscaping b = .xlit b ∧
    ∃ x : Byte, exec (.xlit b) s = .next { s with ubuf := s.ubuf ++ [x], esc := false } ∧
      x = b ^^^ 0x20#8 ∧ ∀ i < 8, x.getLsbD i = if i = 5 then !b.getLsbD i else b.getLsbD i

/-- Rule R103: the marker, met while not escaping, sets the flag and appends nothing. Nothing else changes. -/
def Obligations.EscmSetsTheFlagOnly : Prop :=
  decodeIn .passClear 0x7D#8 = .escm ∧ ∀ s : State, exec .escm s = .next { s with esc := true }

/-- Rule R104: every other byte, met while not escaping, is appended unchanged. Nothing else changes. -/
def Obligations.LitAppendsUnchanged : Prop :=
  ∀ (b : Byte) (s : State),
    (b ≠ 0x7D#8 → decodeIn .passClear b = .lit b) ∧
    exec (.lit b) s = .next { s with ubuf := s.ubuf ++ [b] }

/-! ## Unescape -/

/-- Rule R101: the pass is the one loop of three cases, from an empty output and a clear flag, and it is what the level 2
symbols of the buffer do when they are executed one after another; `ABUF` is read and not written. -/
def Obligations.UnescapeRunsItsSymbols : Prop :=
  unescape [] = { out := [], esc := false } ∧
  (∀ (buffer : List Byte) (b : Byte),
    unescape (buffer ++ [b]) =
      let p := unescape buffer
      if p.esc = true then { out := p.out ++ [b ^^^ 0x20#8], esc := false }
      else if b = 0x7D#8 then { out := p.out, esc := true }
      else { out := p.out ++ [b], esc := false }) ∧
  ∀ (buffer : List Byte) (s : State),
    runSymbols (decodeRun false buffer) { s with ubuf := [], esc := false } =
      .next { s with ubuf := (unescape buffer).out, esc := (unescape buffer).esc }

/-- 0x7E is a sentinel in every state, and a marker that ends a raw frame contributes nothing (30_encoding.md sections 2
and 6, 42_unescape.md section 3): the frame closed by the sentinel after it is the frame without it, with the same
outcome, and it does not reach over the sentinel into the next frame. The last clause, a pending `ESC` of the streaming
form, is 40_feed.md section 5, which the spec's decision D12 admits and which is here a parameter by the model's choice
(assumption log 2); what OUT holds is its deduction (log 13). -/
def Obligations.DanglingEscapeIsDropped : Prop :=
  (∀ s : State, decodeIn s.context 0x7E#8 = .flag) ∧
  ∀ (r : List Byte) (m : TrailerMode), (unescape r).esc = false →
    unescape (r ++ [0x7D#8]) = { out := (unescape r).out, esc := true } ∧
    frameResult m (r ++ [0x7D#8]) = frameResult m r ∧
    (∀ s : State, s.cfg.form = .reference → (s.outFull = true → (unescape r).out.length < 3) →
      exec .flag { s with abuf := r ++ [0x7D#8] } = exec .flag { s with abuf := r } ∧
      ∃ t, exec .flag { s with abuf := r ++ [0x7D#8] } = .next t ∧
        t.abuf = [] ∧ t.esc = false ∧ ∀ b : Byte, b ≠ 0x7D#8 → (unescape (t.abuf ++ [b])).out = [b]) ∧
    (∀ s : State, s.cfg.form = .streaming → (s.outFull = true → s.ubuf.length < 3) →
      exec .flag { s with esc := true } = exec .flag { s with esc := false } ∧
      ∃ t, exec .flag { s with esc := true } = .next t ∧
        t.ubuf = [] ∧ t.esc = false ∧ ∀ b : Byte, b ≠ 0x7D#8 → (t.pass.over [b]).out = [b])

/-- Markers do not stack (42_unescape.md section 3): of `n` consecutive markers those at even positions are operands
giving 0x5D, and an odd last one dangles. -/
def Obligations.MarkersDoNotStack : Prop :=
  ∀ n : Nat,
    unescape (List.replicate n 0x7D#8) = { out := List.replicate (n / 2) 0x5D#8, esc := decide (n % 2 = 1) }

/-- The length law (30_encoding.md section 8): each effective pair and a dangling marker shorten the frame by one, and
the frame has the length of the raw frame exactly when it holds no marker (42_unescape.md section 3). -/
def Obligations.UnescapeLengthLaw : Prop :=
  ∀ r : List Byte,
    (unescape r).out.length + (decodeRun false r).countP (fun i => i.mnemonic == .XLIT) + (unescape r).esc.toNat
      = r.length ∧
    r.length ≤ 2 * (unescape r).out.length + 1 ∧
    ((unescape r).out.length = r.length ↔ 0x7D#8 ∉ r)

/-- Rule R66: what `Stuff` writes for each byte, that it never writes a sentinel, and that what it writes never ends in
a lone escape marker. -/
def Obligations.StuffWritesNoSentinel : Prop :=
  ∀ s : List Byte,
    stuff s = s.flatMap (fun b => if b = 0x7E#8 then [0x7D#8, 0x5E#8] else if b = 0x7D#8 then [0x7D#8, 0x5D#8] else [b]) ∧
    0x7E#8 ∉ stuff s ∧ (unescape (stuff s)).esc = false

/-- The round trip (42_unescape.md section 3), for every sequence over all 256 byte values. -/
def Obligations.UnescapeUndoesStuff : Prop :=
  ∀ s : List Byte, unescape (stuff s) = { out := s, esc := false }

/-! ## CRC16 -/

/-- Rule R115, bit by bit: bit 15 is tested and discarded, a 0 enters bit 0, and when the tested bit was 1, bits 12, 5
and 0 are inverted. -/
def Obligations.CrcRoundBitByBit : Prop :=
  ∀ (acc : Word16) (i : Nat), i < 16 →
    (crcRound acc).getLsbD i =
      ((decide (1 ≤ i) && acc.getLsbD (i - 1)) ^^
        (acc.getLsbD 15 && decide (i = 12 ∨ i = 5 ∨ i = 0)))

/-- Reference values of 43_crc16.md sections 1 and 2, among them the hand trace's and the check string's. -/
def Obligations.CrcReferenceValues : Prop :=
  crc16 [] = 0x0000#16 ∧ crc16 [0x01#8] = 0x1021#16 ∧ crc16 [0x41#8] = 0x58E5#16 ∧ crc16 [0x80#8] = 0x9188#16 ∧
  crc16 [0xFF#8] = 0x1EF0#16 ∧ crc16 [0x41#8, 0x42#8] = 0x567B#16 ∧ crc16 [0x01#8, 0x02#8, 0x03#8] = 0x6131#16 ∧
  crc16 [0x31#8, 0x32#8, 0x33#8, 0x34#8, 0x35#8, 0x36#8, 0x37#8, 0x38#8, 0x39#8] = 0x31C3#16

/-- The table form of the byte step gives the same result as the eight rounds, and the CRC can be accumulated as bytes
arrive (43_crc16.md section 2). -/
def Obligations.CrcTableAndIncrementalForms : Prop :=
  (∀ (acc : Word16) (b : Byte), crcByte acc b = (acc <<< 8) ^^^ crc16 [highByte acc ^^^ b]) ∧
  ∀ x y : List Byte, crc16 (x ++ y) = y.foldl (fun (acc : Word16) (b : Byte) => (acc <<< 8) ^^^ crc16 [highByte acc ^^^ b]) (crc16 x)

/-- The consequences of the zero initial value (43_crc16.md section 2): leading zeros are invisible, the function is
linear over XOR, and a payload followed by its CRC, high byte first, has residue 0. -/
def Obligations.CrcZeroInitialValueLaws : Prop :=
  (∀ (n : Nat) (m : List Byte), crc16 (List.replicate n 0x00#8 ++ m) = crc16 m) ∧
  (∀ a b : List Byte, a.length = b.length → crc16 (List.zipWith (· ^^^ ·) a b) = crc16 a ^^^ crc16 b) ∧
  (∀ m : List Byte, crc16 (m ++ [highByte (crc16 m), lowByte (crc16 m)]) = 0x0000#16)

/-! ## The trailer and the comparison -/

/-- Rule R127: in mode B the earlier trailer byte is bits 7..0 and the later one bits 15..8, so a sender matching the
mode sends the low byte of its CRC first. -/
def Obligations.ModeBTrailerIsLittleEndian : Prop :=
  (∀ t : Trailer, (decodeTrailer .b t).toNat = t.t1.toNat * 256 + t.t0.toNat) ∧
  ∀ w : Word16, decodeTrailer .b { t0 := lowByte w, t1 := highByte w } = w

/-- When the comparison matches, in each mode (44_trailer.md section 2); that mode A zero-extends the second byte and
compares all 16 bits is the spec's decision D20. -/
def Obligations.WhenTheComparisonMatches : Prop :=
  ∀ (p : Payload) (t : Trailer),
    (mismatch (crc16 p) (decodeTrailer .a t) = false ↔ (crc16 p).toNat < 256 ∧ t.t1 = lowByte (crc16 p)) ∧
    (mismatch (crc16 p) (decodeTrailer .b t) = false ↔ t.t0 = lowByte (crc16 p) ∧ t.t1 = highByte (crc16 p))

/-- The outcome table (41_deliver.md section 3): its six rows are the only ones, and which a raw frame falls in. -/
def Obligations.OutcomeTableRows : Prop :=
  ∀ (m : TrailerMode) (buf : List Byte),
    ((unescape buf).out.length < 2 →
      frameResult m buf = { diag := none, out := none, verdict := .undersized }) ∧
    (∀ payload t0 t1, (unescape buf).out = payload ++ [t0, t1] →
      let received := decodeTrailer m { t0 := t0, t1 := t1 }
      let record : Diag := { computed := crc16 payload, received := received, payload := payload }
      (payload = [] → received = 0x0000#16 →
        frameResult m buf = { diag := none, out := none, verdict := .emptyPayload }) ∧
      (payload = [] → received ≠ 0x0000#16 →
        frameResult m buf = { diag := some record, out := none, verdict := .emptyPayload }) ∧
      (payload ≠ [] → crc16 payload = received →
        frameResult m buf = { diag := none, out := some payload, verdict := .deliveredMatch }) ∧
      (payload ≠ [] → crc16 payload ≠ received →
        frameResult m buf = { diag := some record, out := some payload, verdict := .deliveredMismatch }))

/-- The checksum is advisory (44_trailer.md section 2, 41_deliver.md section 4): from two states that differ at most in
`TRAILER_MODE` and in what concerns DIAG, every step has the same kind of outcome and leaves two such states, so
`TRAILER_MODE` and the diagnostics never reach `OUTQ`, `ABUF`, `ESC`, `POS` or what leaves OUT. -/
def Obligations.TrailerModeReachesOnlyDiagnostics : Prop :=
  ∀ s t : State, AgreeOutsideDiag s t → OutcomesMatch AgreeOutsideDiag (step s) (step t)

/-! ## Streams -/

/-- The streaming form is a refinement that the host cannot tell from the reference form (40_feed.md section 5; that it
is admitted is the spec's decision D12): every step of two matching blocks, on the same host moves, has the same kind of
outcome, and next states match again; reset gives matching blocks. -/
def Obligations.StreamingFormMatchesReference : Prop :=
  (∀ s t : State, StreamMatches s t → OutcomesMatch StreamMatches (step s) (step t)) ∧
  ∀ (c : Config) (ms : List HostMove), c.form = .reference →
    StreamMatches ((State.resetWith c).withAgenda ms) ((State.resetWith { c with form := .streaming }).withAgenda ms)

/-- What a whole stream does (40_feed.md section 3): with unbounded stores, after every byte of a stream cut at its
sentinels, the queues hold what each closed run gives, in order, and the tail is what is left to close. What the
streaming form holds of the tail is 40_feed.md section 5, a form that the spec's decision D12 admits and that is here a
parameter by the model's choice (assumption log 2); the stream as a list of moves is another (log 1). -/
def Obligations.WholeStreamDecomposition : Prop :=
  ∀ (c : Config) (runs : List (List Byte)) (tail : List Byte),
    c.Unbounded → (∀ r ∈ runs, sentinel ∉ r) → sentinel ∉ tail →
    let bytes := joinRuns runs tail
    ∃ t, Sys2Proof.core.run bytes.length ((State.resetWith c).withAgenda (bytes.map HostMove.byte)) = .next t ∧
      t.outq = runs.filterMap (fun r => (frameResult c.trailerMode r).out) ∧
      t.diagq = runs.filterMap (fun r => (frameResult c.trailerMode r).diag) ∧
      t.pos = bytes.length ∧ t.agenda = [] ∧
      (c.form = .reference → t.abuf = tail ∧ t.esc = false) ∧
      (c.form = .streaming → t.pass = unescape tail)

/-- Chunking is invisible (40_feed.md section 2): feeding two chunks is feeding their concatenation, also when a full
OUT holds the caller part of the way, and an empty chunk does nothing. -/
def Obligations.ChunkingIsInvisible : Prop :=
  (∀ s : State, feed [] s = .next (s, [])) ∧
  ∀ (c1 c2 : List Byte) (s : State),
    feed (c1 ++ c2) s =
      match feed c1 s with
      | .next (t, []) => feed c2 t
      | .next (t, b :: rest) => .next (t, b :: rest ++ c2)
      | .fault r => .fault r
      | .refused r => .refused r

/-- A chunk fed is the same bytes presented on IN, one step each (40_feed.md section 2; the agenda is the model's own,
assumption log 1). -/
def Obligations.FeedIsTheRunOfItsBytes : Prop :=
  ∀ (bytes : List Byte) (s t : State),
    feed bytes s = .next (t, []) →
    Sys2Proof.core.run bytes.length (s.withAgenda (bytes.map HostMove.byte ++ s.agenda)) = .next t

/-- Every byte presented is consumed, one step each, when the stores are unbounded (70_reset_and_hazards.md section 5),
and `POS` counts each once; no byte is consumed twice or skipped. The moves as a list are the model's choice (assumption
log 1). -/
def Obligations.PresentedBytesAreConsumed : Prop :=
  ∀ (s : State) (bytes : List Byte) (ms : List HostMove),
    s.cfg.Unbounded → s.torn = false → s.agenda = bytes.map HostMove.byte ++ ms →
    ∃ t, Sys2Proof.core.run bytes.length s = .next t ∧ t.agenda = ms ∧ t.pos = s.pos + bytes.length ∧
      t.outq.length ≤ s.outq.length + bytes.countP (· = sentinel) ∧
      t.diagq.length ≤ s.diagq.length + bytes.countP (· = sentinel)

/-- Resynchronisation (40_feed.md section 4): whatever came before a sentinel, what comes after it does to the block
what it would do to a freshly reset one, but for what the traces and `POS` already hold. -/
def Obligations.SentinelResynchronises : Prop :=
  ∀ (s t : State) (bytes : List Byte),
    s.cfg.Unbounded → byteStep sentinel s = .next t →
    ∃ u v, feed bytes t = .next (u, []) ∧ feed bytes (State.resetWith s.cfg) = .next (v, []) ∧
      u.abuf = v.abuf ∧ u.pass = v.pass ∧ u.outq = t.outq ++ v.outq ∧ u.diagq = t.diagq ++ v.diagq ∧
      u.events = t.events ++ v.events ∧ u.pos = t.pos + v.pos

/-- The whole path (property PR9 of 95_test_vectors.md): `FRAME_B(p)` of a payload of at least one byte, fed to a block
between frames, emits exactly `p`; in mode B it raises nothing, and in mode A it raises nothing only when the CRC of
the payload is 0. That last clause rests on the zero extension and the 16-bit comparison of mode A, the spec's
decision D20 (assumption log 12). -/
def Obligations.MatchingFrameIsDeliveredExactly : Prop :=
  ∀ (s : State) (p : Payload),
    s.cfg.Unbounded → s.torn = false → s.abuf = [] → s.ubuf = [] → s.esc = false → p ≠ [] →
    ∃ t, feed (frameB p) s = .next (t, []) ∧ t.outq = s.outq ++ [p] ∧ t.abuf = [] ∧ t.ubuf = [] ∧ t.esc = false ∧
      (s.cfg.trailerMode = .b → t.diagq = s.diagq) ∧
      (s.cfg.trailerMode = .a → (t.diagq = s.diagq ↔ crc16 p = 0x0000#16))

/-- A run with neither a sentinel nor a marker (41_deliver.md section 4): closed by a sentinel, it is delivered without
its last two bytes when it has three or more, and nothing is emitted for a shorter one. -/
def Obligations.LiteralRunLosesItsLastTwoBytes : Prop :=
  ∀ (s : State) (buf : List Byte),
    s.cfg.Unbounded → s.torn = false → s.abuf = [] → s.ubuf = [] → s.esc = false →
    sentinel ∉ buf → escapeMarker ∉ buf →
    ∃ t, feed (buf ++ [sentinel]) s = .next (t, []) ∧
      t.outq = s.outq ++ (if 3 ≤ buf.length then [buf.take (buf.length - 2)] else [])

/-! ## The whole machine -/

/-- After reset (10_state.md section 7): the reset values of `ABUF`, `ESC`, `OUTQ`, `DIAGQ` and `POS` are the spec's
decision D9; the default parameters are its decisions D5 to D7, and the default form its D12 and the model's choice
(assumption log 2); what every other field holds at reset, the host side among them, is the model's choice (log 10). -/
def Obligations.ResetLeavesAnEmptyDecoder : Prop :=
  (∀ c : Config,
    State.resetWith c =
      { abuf := [], esc := false, ubuf := [], outq := [], diagq := [], pos := 0, rawLen := 0, events := [], cfg := c,
        agenda := [], outTaken := [], diagTaken := [], torn := false, past := [] }) ∧
  State.reset = State.resetWith { trailerMode := .a, abufCap := none, outqCap := none, form := .reference }

/-- The invariant holds after reset, whatever the parameters. What the invariant rests on is said at the next statement;
the reset values are the spec's decision D9 and the model's choices (assumption log 10). -/
def Obligations.InvariantHoldsAfterReset : Prop :=
  ∀ c : Config, (State.resetWith c).Inv

/-- Every step keeps the invariant: `ABUF` never holds a sentinel, `ESC` is clear between bytes in the reference form and
no empty payload is emitted (10_state.md section 5), every record is a true one (10_state.md section 2, 60_exceptions.md
section 1), consumers and sink take in order and once (20_memory.md sections 2 and 7), and no store passes a finite
capacity (70_reset_and_hazards.md section 4, 20_memory.md section 7). What the streaming form keeps is 40_feed.md section
5 and 42_unescape.md section 3; the form, and its count of the run, are the spec's decision D12 and the model's choice
(assumption log 2). That the pass's output is empty between bytes is log 16, the merged trace log 17, the bound on what
OUT holds log 13, and the bound on `received` in mode A the spec's decision D20 (log 12). -/
def Obligations.EveryStepKeepsTheInvariant : Prop :=
  ∀ s t : State, s.Inv → step s = .next t → t.Inv

/-- The queues only grow (10_state.md section 5): a step that is no reset removes and rewrites nothing that was pushed,
and pushes at most one payload and one record, and those only for a sentinel. -/
def Obligations.QueuesOnlyGrow : Prop :=
  ∀ s t : State, step s = .next t → s.agenda.head? ≠ some .reset →
    ∃ ps ds, t.outq = s.outq ++ ps ∧ t.diagq = s.diagq ++ ds ∧ ps.length ≤ 1 ∧ ds.length ≤ 1 ∧
      (s.agenda.head? ≠ some (.byte sentinel) → ps = [] ∧ ds = [])

/-- The byte step is a total function with no fault outcome, on every state and every byte; the only refusal is that of a
finite `ABUF_CAP` and the only stall is that of a finite `OUTQ_CAP` (60_exceptions.md section 1, 70_reset_and_hazards.md
section 4). In the streaming form, which is the spec's decision D12, the refusal counts the run by the model's choice
(assumption log 2); that a store at or above its capacity is full is its deduction (log 14), and so is what OUT holds
(log 13). -/
def Obligations.ByteStepIsTotal : Prop :=
  ∀ (s : State) (b : Byte), s.torn = false →
    (∀ r, byteStep b s ≠ .fault r) ∧
    ((∃ t, byteStep b s = .next t) ∨
      (byteStep b s = .refused .abufOverflow ∧ b ≠ sentinel ∧
        ∃ n, s.cfg.abufCap = some n ∧ n ≤ (if s.cfg.form = .reference then s.abuf.length else s.rawLen))) ∧
    (s.waitsOn b = true → b = sentinel ∧ ∃ n, s.cfg.outqCap = some n ∧ n ≤ s.outHeld) ∧
    (s.cfg.Unbounded → s.waitsOn b = false ∧ ∃ t, byteStep b s = .next t)

/-- A pop (20_memory.md sections 1, 2 and 7, decisions D3, D4 and D21): a consumer takes the oldest payload not yet
taken, the sink the oldest record not yet taken, and nothing else changes; on an empty queue the move does nothing,
which is the model's choice (assumption log 5). -/
def Obligations.PopsTakeTheOldest : Prop :=
  ∀ (s : State) (c : Nat) (ms : List HostMove),
    (s.agenda = .popOut c :: ms →
      (∀ p, s.outq[s.outTaken.length]? = some p →
        step s = .next { s with agenda := ms, outTaken := s.outTaken ++ [(c, p)] }) ∧
      (s.outq[s.outTaken.length]? = none → step s = .next { s with agenda := ms })) ∧
    (s.agenda = .popDiag :: ms →
      (∀ d, s.diagq[s.diagTaken.length]? = some d →
        step s = .next { s with agenda := ms, diagTaken := s.diagTaken ++ [d] }) ∧
      (s.diagq[s.diagTaken.length]? = none → step s = .next { s with agenda := ms }))

/-- Teardown (70_reset_and_hazards.md section 2, decision D15): the tail is lost, the queues stay and can be drained, no
payload or record is made of the tail, and a byte presented afterwards has no meaning. The consumers see OUT closed
exactly when the block is torn down and OUT is drained, and draining it takes one pop for each payload it holds. That a
second teardown is accepted, and that DIAG stays as it is, is the model's choice (assumption log 6); what OUT holds is
its deduction (log 13), and the moves as a list are its choice (log 1). -/
def Obligations.TeardownEndsTheExecution : Prop :=
  ∀ (s : State) (ms : List HostMove), (s.torn = false → s.seenClosed = false) ∧
    (s.agenda = .teardown :: ms →
      ∃ t, step s = .next t ∧ t.torn = true ∧ t.agenda = ms ∧ t.abuf = [] ∧ t.ubuf = [] ∧ t.esc = false ∧
        t.outq = s.outq ∧ t.diagq = s.diagq ∧ t.outTaken = s.outTaken ∧ t.diagTaken = s.diagTaken ∧ t.pos = s.pos ∧
        (t.seenClosed = true ↔ t.outHeld = 0)) ∧
    (s.torn = true → ∀ consumers : List Nat, consumers.length = s.outHeld →
      s.agenda = consumers.map HostMove.popOut ++ ms →
      ∃ t, Sys2Proof.core.run consumers.length s = .next t ∧ t.agenda = ms ∧ t.outq = s.outq ∧
        t.outTaken = s.outTaken ++ consumers.zip (s.outq.drop s.outTaken.length) ∧ t.seenClosed = true) ∧
    ∀ b : Byte, s.torn = true → s.agenda = .byte b :: ms → step s = .refused .feedAfterTeardown

/-- A reset during operation (70_reset_and_hazards.md section 1, decisions D9 and D18): a new execution begins in the
reset state with the same parameters, the bytes of an unfinished frame are gone, and the trace of the ended execution
stands as it was. That this trace is kept in the state, and that what was not taken at the reset takes no room in OUT and
is never popped, is the model's choice (assumption log 17); so are the values of its other fields (log 10), the reset
after a teardown (log 6) and the moves as a list (log 1). -/
def Obligations.HostResetBeginsANewExecution : Prop :=
  ∀ (s : State) (ms : List HostMove), s.agenda = .reset :: ms →
    step s = .next { State.resetWith s.cfg with agenda := ms, past := s.past ++ [s.events] }

/-- While nothing comes the block keeps its state (60_exceptions.md section 5, decision D15): there is no timeout. That
nothing comes is an empty list of moves, the model's choice (assumption log 1). -/
def Obligations.IdleBlockKeepsItsState : Prop :=
  ∀ s : State, s.agenda = [] → step s = .next s

/-- What the host must not do while a byte step waits has no meaning (70_reset_and_hazards.md sections 1, 2 and 4,
decisions D15 and D18; that it is refused by name is assumption log 8), however many bytes are queued before it, and
neither is ever taken for something else. -/
def Obligations.NoCloseOrResetInsideAByteStep : Prop :=
  ∀ (s : State) (bytes : List Byte) (ms : List HostMove), s.waitsOn sentinel = true →
    (s.agenda = .byte sentinel :: (bytes.map HostMove.byte ++ .teardown :: ms) → step s = .refused .closeDuringFeed) ∧
    (s.agenda = .byte sentinel :: (bytes.map HostMove.byte ++ .reset :: ms) → step s = .refused .resetInsideByteStep)
end

