-- ==== Sys2Proof/Laws/State.lean ====
section
/-! SUPPORT. One lemma for each field of each update of the state, true by unfolding, so that no proof unfolds a record
update; and for the updates that may leave the state as it is, the fields they never touch. -/

namespace Sys2Proof.Machine

variable (s : State)

/-! ### withPass -/

@[simp] theorem State.withPass_abuf (p : Pass) : (s.withPass p).abuf = s.abuf := rfl
@[simp] theorem State.withPass_esc (p : Pass) : (s.withPass p).esc = p.esc := rfl
@[simp] theorem State.withPass_ubuf (p : Pass) : (s.withPass p).ubuf = p.out := rfl
@[simp] theorem State.withPass_outq (p : Pass) : (s.withPass p).outq = s.outq := rfl
@[simp] theorem State.withPass_diagq (p : Pass) : (s.withPass p).diagq = s.diagq := rfl
@[simp] theorem State.withPass_pos (p : Pass) : (s.withPass p).pos = s.pos := rfl
@[simp] theorem State.withPass_rawLen (p : Pass) : (s.withPass p).rawLen = s.rawLen := rfl
@[simp] theorem State.withPass_events (p : Pass) : (s.withPass p).events = s.events := rfl
@[simp] theorem State.withPass_cfg (p : Pass) : (s.withPass p).cfg = s.cfg := rfl
@[simp] theorem State.withPass_agenda (p : Pass) : (s.withPass p).agenda = s.agenda := rfl
@[simp] theorem State.withPass_outTaken (p : Pass) : (s.withPass p).outTaken = s.outTaken := rfl
@[simp] theorem State.withPass_diagTaken (p : Pass) : (s.withPass p).diagTaken = s.diagTaken := rfl
@[simp] theorem State.withPass_torn (p : Pass) : (s.withPass p).torn = s.torn := rfl
@[simp] theorem State.withPass_past (p : Pass) : (s.withPass p).past = s.past := rfl

/-! ### appendRaw -/

@[simp] theorem State.appendRaw_abuf (b : Byte) : (s.appendRaw b).abuf = s.abuf ++ [b] := rfl
@[simp] theorem State.appendRaw_esc (b : Byte) : (s.appendRaw b).esc = s.esc := rfl
@[simp] theorem State.appendRaw_ubuf (b : Byte) : (s.appendRaw b).ubuf = s.ubuf := rfl
@[simp] theorem State.appendRaw_outq (b : Byte) : (s.appendRaw b).outq = s.outq := rfl
@[simp] theorem State.appendRaw_diagq (b : Byte) : (s.appendRaw b).diagq = s.diagq := rfl
@[simp] theorem State.appendRaw_pos (b : Byte) : (s.appendRaw b).pos = s.pos := rfl
@[simp] theorem State.appendRaw_rawLen (b : Byte) : (s.appendRaw b).rawLen = s.rawLen := rfl
@[simp] theorem State.appendRaw_events (b : Byte) : (s.appendRaw b).events = s.events := rfl
@[simp] theorem State.appendRaw_cfg (b : Byte) : (s.appendRaw b).cfg = s.cfg := rfl
@[simp] theorem State.appendRaw_agenda (b : Byte) : (s.appendRaw b).agenda = s.agenda := rfl
@[simp] theorem State.appendRaw_outTaken (b : Byte) : (s.appendRaw b).outTaken = s.outTaken := rfl
@[simp] theorem State.appendRaw_diagTaken (b : Byte) : (s.appendRaw b).diagTaken = s.diagTaken := rfl
@[simp] theorem State.appendRaw_torn (b : Byte) : (s.appendRaw b).torn = s.torn := rfl
@[simp] theorem State.appendRaw_past (b : Byte) : (s.appendRaw b).past = s.past := rfl

/-! ### clearFrame -/

@[simp] theorem State.clearFrame_abuf : (s.clearFrame).abuf = [] := rfl
@[simp] theorem State.clearFrame_esc : (s.clearFrame).esc = false := rfl
@[simp] theorem State.clearFrame_ubuf : (s.clearFrame).ubuf = [] := rfl
@[simp] theorem State.clearFrame_outq : (s.clearFrame).outq = s.outq := rfl
@[simp] theorem State.clearFrame_diagq : (s.clearFrame).diagq = s.diagq := rfl
@[simp] theorem State.clearFrame_pos : (s.clearFrame).pos = s.pos := rfl
@[simp] theorem State.clearFrame_rawLen : (s.clearFrame).rawLen = 0 := rfl
@[simp] theorem State.clearFrame_events : (s.clearFrame).events = s.events := rfl
@[simp] theorem State.clearFrame_cfg : (s.clearFrame).cfg = s.cfg := rfl
@[simp] theorem State.clearFrame_agenda : (s.clearFrame).agenda = s.agenda := rfl
@[simp] theorem State.clearFrame_outTaken : (s.clearFrame).outTaken = s.outTaken := rfl
@[simp] theorem State.clearFrame_diagTaken : (s.clearFrame).diagTaken = s.diagTaken := rfl
@[simp] theorem State.clearFrame_torn : (s.clearFrame).torn = s.torn := rfl
@[simp] theorem State.clearFrame_past : (s.clearFrame).past = s.past := rfl

/-! ### emit -/

@[simp] theorem State.emit_abuf (p : Payload) : (s.emit p).abuf = s.abuf := rfl
@[simp] theorem State.emit_esc (p : Payload) : (s.emit p).esc = s.esc := rfl
@[simp] theorem State.emit_ubuf (p : Payload) : (s.emit p).ubuf = s.ubuf := rfl
@[simp] theorem State.emit_outq (p : Payload) : (s.emit p).outq = s.outq ++ [p] := rfl
@[simp] theorem State.emit_diagq (p : Payload) : (s.emit p).diagq = s.diagq := rfl
@[simp] theorem State.emit_pos (p : Payload) : (s.emit p).pos = s.pos := rfl
@[simp] theorem State.emit_rawLen (p : Payload) : (s.emit p).rawLen = s.rawLen := rfl
@[simp] theorem State.emit_events (p : Payload) : (s.emit p).events = s.events ++ [.payload p] := rfl
@[simp] theorem State.emit_cfg (p : Payload) : (s.emit p).cfg = s.cfg := rfl
@[simp] theorem State.emit_agenda (p : Payload) : (s.emit p).agenda = s.agenda := rfl
@[simp] theorem State.emit_outTaken (p : Payload) : (s.emit p).outTaken = s.outTaken := rfl
@[simp] theorem State.emit_diagTaken (p : Payload) : (s.emit p).diagTaken = s.diagTaken := rfl
@[simp] theorem State.emit_torn (p : Payload) : (s.emit p).torn = s.torn := rfl
@[simp] theorem State.emit_past (p : Payload) : (s.emit p).past = s.past := rfl

/-! ### notify -/

@[simp] theorem State.notify_abuf (d : Diag) : (s.notify d).abuf = s.abuf := rfl
@[simp] theorem State.notify_esc (d : Diag) : (s.notify d).esc = s.esc := rfl
@[simp] theorem State.notify_ubuf (d : Diag) : (s.notify d).ubuf = s.ubuf := rfl
@[simp] theorem State.notify_outq (d : Diag) : (s.notify d).outq = s.outq := rfl
@[simp] theorem State.notify_diagq (d : Diag) : (s.notify d).diagq = s.diagq ++ [d] := rfl
@[simp] theorem State.notify_pos (d : Diag) : (s.notify d).pos = s.pos := rfl
@[simp] theorem State.notify_rawLen (d : Diag) : (s.notify d).rawLen = s.rawLen := rfl
@[simp] theorem State.notify_events (d : Diag) : (s.notify d).events = s.events ++ [.record d] := rfl
@[simp] theorem State.notify_cfg (d : Diag) : (s.notify d).cfg = s.cfg := rfl
@[simp] theorem State.notify_agenda (d : Diag) : (s.notify d).agenda = s.agenda := rfl
@[simp] theorem State.notify_outTaken (d : Diag) : (s.notify d).outTaken = s.outTaken := rfl
@[simp] theorem State.notify_diagTaken (d : Diag) : (s.notify d).diagTaken = s.diagTaken := rfl
@[simp] theorem State.notify_torn (d : Diag) : (s.notify d).torn = s.torn := rfl
@[simp] theorem State.notify_past (d : Diag) : (s.notify d).past = s.past := rfl

/-! ### consumed -/

@[simp] theorem State.consumed_abuf : (s.consumed).abuf = s.abuf := rfl
@[simp] theorem State.consumed_esc : (s.consumed).esc = s.esc := rfl
@[simp] theorem State.consumed_ubuf : (s.consumed).ubuf = s.ubuf := rfl
@[simp] theorem State.consumed_outq : (s.consumed).outq = s.outq := rfl
@[simp] theorem State.consumed_diagq : (s.consumed).diagq = s.diagq := rfl
@[simp] theorem State.consumed_pos : (s.consumed).pos = s.pos + 1 := rfl
@[simp] theorem State.consumed_rawLen : (s.consumed).rawLen = s.rawLen := rfl
@[simp] theorem State.consumed_events : (s.consumed).events = s.events := rfl
@[simp] theorem State.consumed_cfg : (s.consumed).cfg = s.cfg := rfl
@[simp] theorem State.consumed_agenda : (s.consumed).agenda = s.agenda := rfl
@[simp] theorem State.consumed_outTaken : (s.consumed).outTaken = s.outTaken := rfl
@[simp] theorem State.consumed_diagTaken : (s.consumed).diagTaken = s.diagTaken := rfl
@[simp] theorem State.consumed_torn : (s.consumed).torn = s.torn := rfl
@[simp] theorem State.consumed_past : (s.consumed).past = s.past := rfl

/-! ### consumedStream -/

@[simp] theorem State.consumedStream_abuf : (s.consumedStream).abuf = s.abuf := rfl
@[simp] theorem State.consumedStream_esc : (s.consumedStream).esc = s.esc := rfl
@[simp] theorem State.consumedStream_ubuf : (s.consumedStream).ubuf = s.ubuf := rfl
@[simp] theorem State.consumedStream_outq : (s.consumedStream).outq = s.outq := rfl
@[simp] theorem State.consumedStream_diagq : (s.consumedStream).diagq = s.diagq := rfl
@[simp] theorem State.consumedStream_pos : (s.consumedStream).pos = s.pos + 1 := rfl
@[simp] theorem State.consumedStream_rawLen : (s.consumedStream).rawLen = s.rawLen + 1 := rfl
@[simp] theorem State.consumedStream_events : (s.consumedStream).events = s.events := rfl
@[simp] theorem State.consumedStream_cfg : (s.consumedStream).cfg = s.cfg := rfl
@[simp] theorem State.consumedStream_agenda : (s.consumedStream).agenda = s.agenda := rfl
@[simp] theorem State.consumedStream_outTaken : (s.consumedStream).outTaken = s.outTaken := rfl
@[simp] theorem State.consumedStream_diagTaken : (s.consumedStream).diagTaken = s.diagTaken := rfl
@[simp] theorem State.consumedStream_torn : (s.consumedStream).torn = s.torn := rfl
@[simp] theorem State.consumedStream_past : (s.consumedStream).past = s.past := rfl

/-! ### withAgenda -/

@[simp] theorem State.withAgenda_abuf (ms : List HostMove) : (s.withAgenda ms).abuf = s.abuf := rfl
@[simp] theorem State.withAgenda_esc (ms : List HostMove) : (s.withAgenda ms).esc = s.esc := rfl
@[simp] theorem State.withAgenda_ubuf (ms : List HostMove) : (s.withAgenda ms).ubuf = s.ubuf := rfl
@[simp] theorem State.withAgenda_outq (ms : List HostMove) : (s.withAgenda ms).outq = s.outq := rfl
@[simp] theorem State.withAgenda_diagq (ms : List HostMove) : (s.withAgenda ms).diagq = s.diagq := rfl
@[simp] theorem State.withAgenda_pos (ms : List HostMove) : (s.withAgenda ms).pos = s.pos := rfl
@[simp] theorem State.withAgenda_rawLen (ms : List HostMove) : (s.withAgenda ms).rawLen = s.rawLen := rfl
@[simp] theorem State.withAgenda_events (ms : List HostMove) : (s.withAgenda ms).events = s.events := rfl
@[simp] theorem State.withAgenda_cfg (ms : List HostMove) : (s.withAgenda ms).cfg = s.cfg := rfl
@[simp] theorem State.withAgenda_agenda (ms : List HostMove) : (s.withAgenda ms).agenda = ms := rfl
@[simp] theorem State.withAgenda_outTaken (ms : List HostMove) : (s.withAgenda ms).outTaken = s.outTaken := rfl
@[simp] theorem State.withAgenda_diagTaken (ms : List HostMove) : (s.withAgenda ms).diagTaken = s.diagTaken := rfl
@[simp] theorem State.withAgenda_torn (ms : List HostMove) : (s.withAgenda ms).torn = s.torn := rfl
@[simp] theorem State.withAgenda_past (ms : List HostMove) : (s.withAgenda ms).past = s.past := rfl

/-! ### tearDown -/

@[simp] theorem State.tearDown_abuf : (s.tearDown).abuf = [] := rfl
@[simp] theorem State.tearDown_esc : (s.tearDown).esc = false := rfl
@[simp] theorem State.tearDown_ubuf : (s.tearDown).ubuf = [] := rfl
@[simp] theorem State.tearDown_outq : (s.tearDown).outq = s.outq := rfl
@[simp] theorem State.tearDown_diagq : (s.tearDown).diagq = s.diagq := rfl
@[simp] theorem State.tearDown_pos : (s.tearDown).pos = s.pos := rfl
@[simp] theorem State.tearDown_rawLen : (s.tearDown).rawLen = 0 := rfl
@[simp] theorem State.tearDown_events : (s.tearDown).events = s.events := rfl
@[simp] theorem State.tearDown_cfg : (s.tearDown).cfg = s.cfg := rfl
@[simp] theorem State.tearDown_agenda : (s.tearDown).agenda = s.agenda := rfl
@[simp] theorem State.tearDown_outTaken : (s.tearDown).outTaken = s.outTaken := rfl
@[simp] theorem State.tearDown_diagTaken : (s.tearDown).diagTaken = s.diagTaken := rfl
@[simp] theorem State.tearDown_torn : (s.tearDown).torn = true := rfl
@[simp] theorem State.tearDown_past : (s.tearDown).past = s.past := rfl

/-! ### hostReset -/

@[simp] theorem State.hostReset_abuf : (s.hostReset).abuf = [] := rfl
@[simp] theorem State.hostReset_esc : (s.hostReset).esc = false := rfl
@[simp] theorem State.hostReset_ubuf : (s.hostReset).ubuf = [] := rfl
@[simp] theorem State.hostReset_outq : (s.hostReset).outq = [] := rfl
@[simp] theorem State.hostReset_diagq : (s.hostReset).diagq = [] := rfl
@[simp] theorem State.hostReset_pos : (s.hostReset).pos = 0 := rfl
@[simp] theorem State.hostReset_rawLen : (s.hostReset).rawLen = 0 := rfl
@[simp] theorem State.hostReset_events : (s.hostReset).events = [] := rfl
@[simp] theorem State.hostReset_cfg : (s.hostReset).cfg = s.cfg := rfl
@[simp] theorem State.hostReset_agenda : (s.hostReset).agenda = s.agenda := rfl
@[simp] theorem State.hostReset_outTaken : (s.hostReset).outTaken = [] := rfl
@[simp] theorem State.hostReset_diagTaken : (s.hostReset).diagTaken = [] := rfl
@[simp] theorem State.hostReset_torn : (s.hostReset).torn = false := rfl
@[simp] theorem State.hostReset_past : (s.hostReset).past = s.past ++ [s.events] := rfl

/-! ### resetWith -/

@[simp] theorem State.resetWith_abuf (c : Config) : (State.resetWith c).abuf = [] := rfl
@[simp] theorem State.resetWith_esc (c : Config) : (State.resetWith c).esc = false := rfl
@[simp] theorem State.resetWith_ubuf (c : Config) : (State.resetWith c).ubuf = [] := rfl
@[simp] theorem State.resetWith_outq (c : Config) : (State.resetWith c).outq = [] := rfl
@[simp] theorem State.resetWith_diagq (c : Config) : (State.resetWith c).diagq = [] := rfl
@[simp] theorem State.resetWith_pos (c : Config) : (State.resetWith c).pos = 0 := rfl
@[simp] theorem State.resetWith_rawLen (c : Config) : (State.resetWith c).rawLen = 0 := rfl
@[simp] theorem State.resetWith_events (c : Config) : (State.resetWith c).events = [] := rfl
@[simp] theorem State.resetWith_cfg (c : Config) : (State.resetWith c).cfg = c := rfl
@[simp] theorem State.resetWith_agenda (c : Config) : (State.resetWith c).agenda = [] := rfl
@[simp] theorem State.resetWith_outTaken (c : Config) : (State.resetWith c).outTaken = [] := rfl
@[simp] theorem State.resetWith_diagTaken (c : Config) : (State.resetWith c).diagTaken = [] := rfl
@[simp] theorem State.resetWith_torn (c : Config) : (State.resetWith c).torn = false := rfl
@[simp] theorem State.resetWith_past (c : Config) : (State.resetWith c).past = [] := rfl

/-! ### popOut -/

@[simp] theorem State.popOut_abuf (c : Nat) : (s.popOut c).abuf = s.abuf := by
  unfold State.popOut; split <;> rfl
@[simp] theorem State.popOut_esc (c : Nat) : (s.popOut c).esc = s.esc := by
  unfold State.popOut; split <;> rfl
@[simp] theorem State.popOut_ubuf (c : Nat) : (s.popOut c).ubuf = s.ubuf := by
  unfold State.popOut; split <;> rfl
@[simp] theorem State.popOut_outq (c : Nat) : (s.popOut c).outq = s.outq := by
  unfold State.popOut; split <;> rfl
@[simp] theorem State.popOut_diagq (c : Nat) : (s.popOut c).diagq = s.diagq := by
  unfold State.popOut; split <;> rfl
@[simp] theorem State.popOut_pos (c : Nat) : (s.popOut c).pos = s.pos := by
  unfold State.popOut; split <;> rfl
@[simp] theorem State.popOut_rawLen (c : Nat) : (s.popOut c).rawLen = s.rawLen := by
  unfold State.popOut; split <;> rfl
@[simp] theorem State.popOut_events (c : Nat) : (s.popOut c).events = s.events := by
  unfold State.popOut; split <;> rfl
@[simp] theorem State.popOut_cfg (c : Nat) : (s.popOut c).cfg = s.cfg := by
  unfold State.popOut; split <;> rfl
@[simp] theorem State.popOut_agenda (c : Nat) : (s.popOut c).agenda = s.agenda := by
  unfold State.popOut; split <;> rfl
@[simp] theorem State.popOut_diagTaken (c : Nat) : (s.popOut c).diagTaken = s.diagTaken := by
  unfold State.popOut; split <;> rfl
@[simp] theorem State.popOut_torn (c : Nat) : (s.popOut c).torn = s.torn := by
  unfold State.popOut; split <;> rfl
@[simp] theorem State.popOut_past (c : Nat) : (s.popOut c).past = s.past := by
  unfold State.popOut; split <;> rfl

/-! ### popDiag -/

@[simp] theorem State.popDiag_abuf : (s.popDiag).abuf = s.abuf := by
  unfold State.popDiag; split <;> rfl
@[simp] theorem State.popDiag_esc : (s.popDiag).esc = s.esc := by
  unfold State.popDiag; split <;> rfl
@[simp] theorem State.popDiag_ubuf : (s.popDiag).ubuf = s.ubuf := by
  unfold State.popDiag; split <;> rfl
@[simp] theorem State.popDiag_outq : (s.popDiag).outq = s.outq := by
  unfold State.popDiag; split <;> rfl
@[simp] theorem State.popDiag_diagq : (s.popDiag).diagq = s.diagq := by
  unfold State.popDiag; split <;> rfl
@[simp] theorem State.popDiag_pos : (s.popDiag).pos = s.pos := by
  unfold State.popDiag; split <;> rfl
@[simp] theorem State.popDiag_rawLen : (s.popDiag).rawLen = s.rawLen := by
  unfold State.popDiag; split <;> rfl
@[simp] theorem State.popDiag_events : (s.popDiag).events = s.events := by
  unfold State.popDiag; split <;> rfl
@[simp] theorem State.popDiag_cfg : (s.popDiag).cfg = s.cfg := by
  unfold State.popDiag; split <;> rfl
@[simp] theorem State.popDiag_agenda : (s.popDiag).agenda = s.agenda := by
  unfold State.popDiag; split <;> rfl
@[simp] theorem State.popDiag_outTaken : (s.popDiag).outTaken = s.outTaken := by
  unfold State.popDiag; split <;> rfl
@[simp] theorem State.popDiag_torn : (s.popDiag).torn = s.torn := by
  unfold State.popDiag; split <;> rfl
@[simp] theorem State.popDiag_past : (s.popDiag).past = s.past := by
  unfold State.popDiag; split <;> rfl

/-! ### report -/

@[simp] theorem State.report_abuf (d : Diag) : (s.report d).abuf = s.abuf := by
  unfold State.report; split <;> rfl
@[simp] theorem State.report_esc (d : Diag) : (s.report d).esc = s.esc := by
  unfold State.report; split <;> rfl
@[simp] theorem State.report_ubuf (d : Diag) : (s.report d).ubuf = s.ubuf := by
  unfold State.report; split <;> rfl
@[simp] theorem State.report_outq (d : Diag) : (s.report d).outq = s.outq := by
  unfold State.report; split <;> rfl
@[simp] theorem State.report_pos (d : Diag) : (s.report d).pos = s.pos := by
  unfold State.report; split <;> rfl
@[simp] theorem State.report_rawLen (d : Diag) : (s.report d).rawLen = s.rawLen := by
  unfold State.report; split <;> rfl
@[simp] theorem State.report_cfg (d : Diag) : (s.report d).cfg = s.cfg := by
  unfold State.report; split <;> rfl
@[simp] theorem State.report_agenda (d : Diag) : (s.report d).agenda = s.agenda := by
  unfold State.report; split <;> rfl
@[simp] theorem State.report_outTaken (d : Diag) : (s.report d).outTaken = s.outTaken := by
  unfold State.report; split <;> rfl
@[simp] theorem State.report_diagTaken (d : Diag) : (s.report d).diagTaken = s.diagTaken := by
  unfold State.report; split <;> rfl
@[simp] theorem State.report_torn (d : Diag) : (s.report d).torn = s.torn := by
  unfold State.report; split <;> rfl
@[simp] theorem State.report_past (d : Diag) : (s.report d).past = s.past := by
  unfold State.report; split <;> rfl

/-! ### forward -/

@[simp] theorem State.forward_abuf (p : Payload) : (s.forward p).abuf = s.abuf := by
  unfold State.forward; split <;> rfl
@[simp] theorem State.forward_esc (p : Payload) : (s.forward p).esc = s.esc := by
  unfold State.forward; split <;> rfl
@[simp] theorem State.forward_ubuf (p : Payload) : (s.forward p).ubuf = s.ubuf := by
  unfold State.forward; split <;> rfl
@[simp] theorem State.forward_diagq (p : Payload) : (s.forward p).diagq = s.diagq := by
  unfold State.forward; split <;> rfl
@[simp] theorem State.forward_pos (p : Payload) : (s.forward p).pos = s.pos := by
  unfold State.forward; split <;> rfl
@[simp] theorem State.forward_rawLen (p : Payload) : (s.forward p).rawLen = s.rawLen := by
  unfold State.forward; split <;> rfl
@[simp] theorem State.forward_cfg (p : Payload) : (s.forward p).cfg = s.cfg := by
  unfold State.forward; split <;> rfl
@[simp] theorem State.forward_agenda (p : Payload) : (s.forward p).agenda = s.agenda := by
  unfold State.forward; split <;> rfl
@[simp] theorem State.forward_outTaken (p : Payload) : (s.forward p).outTaken = s.outTaken := by
  unfold State.forward; split <;> rfl
@[simp] theorem State.forward_diagTaken (p : Payload) : (s.forward p).diagTaken = s.diagTaken := by
  unfold State.forward; split <;> rfl
@[simp] theorem State.forward_torn (p : Payload) : (s.forward p).torn = s.torn := by
  unfold State.forward; split <;> rfl
@[simp] theorem State.forward_past (p : Payload) : (s.forward p).past = s.past := by
  unfold State.forward; split <;> rfl

/-! ### openFrame -/

@[simp] theorem State.openFrame_abuf : (s.openFrame).abuf = s.abuf := by
  unfold State.openFrame; split <;> rfl
@[simp] theorem State.openFrame_outq : (s.openFrame).outq = s.outq := by
  unfold State.openFrame; split <;> rfl
@[simp] theorem State.openFrame_diagq : (s.openFrame).diagq = s.diagq := by
  unfold State.openFrame; split <;> rfl
@[simp] theorem State.openFrame_pos : (s.openFrame).pos = s.pos := by
  unfold State.openFrame; split <;> rfl
@[simp] theorem State.openFrame_rawLen : (s.openFrame).rawLen = s.rawLen := by
  unfold State.openFrame; split <;> rfl
@[simp] theorem State.openFrame_events : (s.openFrame).events = s.events := by
  unfold State.openFrame; split <;> rfl
@[simp] theorem State.openFrame_cfg : (s.openFrame).cfg = s.cfg := by
  unfold State.openFrame; split <;> rfl
@[simp] theorem State.openFrame_agenda : (s.openFrame).agenda = s.agenda := by
  unfold State.openFrame; split <;> rfl
@[simp] theorem State.openFrame_outTaken : (s.openFrame).outTaken = s.outTaken := by
  unfold State.openFrame; split <;> rfl
@[simp] theorem State.openFrame_diagTaken : (s.openFrame).diagTaken = s.diagTaken := by
  unfold State.openFrame; split <;> rfl
@[simp] theorem State.openFrame_torn : (s.openFrame).torn = s.torn := by
  unfold State.openFrame; split <;> rfl
@[simp] theorem State.openFrame_past : (s.openFrame).past = s.past := by
  unfold State.openFrame; split <;> rfl

/-! ### The pass -/

@[simp] theorem State.pass_out : s.pass.out = s.ubuf := rfl
@[simp] theorem State.pass_esc : s.pass.esc = s.esc := rfl
@[simp] theorem State.pass_withPass (p : Pass) : (s.withPass p).pass = p := rfl
@[simp] theorem State.withPass_pass : s.withPass s.pass = s := rfl
@[simp] theorem State.withPass_withPass (p q : Pass) : (s.withPass p).withPass q = s.withPass q := rfl
@[simp] theorem State.withAgenda_withAgenda (ms ns : List HostMove) :
    (s.withAgenda ms).withAgenda ns = s.withAgenda ns := rfl
@[simp] theorem State.withAgenda_agenda_self : s.withAgenda s.agenda = s := rfl

end Sys2Proof.Machine
end

