-- ==== Sys2Proof/Laws/Crc.lean ====
section
/-! SUPPORT. The CRC's rounds are linear over XOR, and its loop runs over a concatenation piece by piece (rule R120). -/

namespace Sys2Proof.Machine

@[simp] theorem crcFrom_nil (acc : Word16) : crcFrom acc [] = acc := rfl
@[simp] theorem crcFrom_cons (acc : Word16) (b : Byte) (bs : List Byte) :
    crcFrom acc (b :: bs) = crcFrom (crcByte acc b) bs := rfl

theorem crcFrom_append (acc : Word16) (x y : List Byte) : crcFrom acc (x ++ y) = crcFrom (crcFrom acc x) y := by
  simp [crcFrom, List.foldl_append]

theorem crcRound_xor (a b : Word16) : crcRound (a ^^^ b) = crcRound a ^^^ crcRound b := by
  unfold crcRound
  rw [BitVec.getLsbD_xor, BitVec.shiftLeft_xor_distrib]
  cases a.getLsbD 15 <;> cases b.getLsbD 15
  · simp
  · simp [BitVec.xor_assoc]
  · simp only [bne_iff_ne, ne_eq, Bool.true_eq_false, not_false_eq_true, if_true, Bool.false_eq_true, if_false]
    ac_rfl
  · simp only [bne_self_eq_false, Bool.false_eq_true, if_false, if_true]
    rw [BitVec.xor_assoc, BitVec.xor_comm crcPoly, BitVec.xor_assoc, BitVec.xor_self, BitVec.xor_zero]

theorem crcRounds_xor (n : Nat) (a b : Word16) : crcRounds n (a ^^^ b) = crcRounds n a ^^^ crcRounds n b := by
  induction n generalizing a b with
  | zero => rfl
  | succ n ih => simp [crcRounds, crcRound_xor, ih]

theorem crcRounds_zero (n : Nat) : crcRounds n 0 = 0 := by
  have h := crcRounds_xor n 0 0
  simpa using h

theorem zext16_xor (a b : Byte) : zext16 (a ^^^ b) = zext16 a ^^^ zext16 b := by
  simp [zext16]

theorem crcByte_xor (x y : Word16) (a b : Byte) : crcByte (x ^^^ y) (a ^^^ b) = crcByte x a ^^^ crcByte y b := by
  unfold crcByte
  rw [← crcRounds_xor, zext16_xor, BitVec.shiftLeft_xor_distrib]
  congr 1
  ac_rfl

end Sys2Proof.Machine
end

