-- ==== Sys2Proof/Laws/Operands.lean ====
section
/-! SUPPORT. The bytes of a word16 as numbers, and how they come apart and together. -/

namespace Sys2Proof.Machine

@[simp] theorem zext16_toNat (b : Byte) : (zext16 b).toNat = b.toNat := by
  have := b.isLt
  simp [zext16]
  omega

theorem cat16_toNat (hi lo : Byte) : (cat16 hi lo).toNat = hi.toNat * 256 + lo.toNat := by
  unfold cat16
  rw [BitVec.toNat_append, ← Nat.shiftLeft_add_eq_or_of_lt lo.isLt, Nat.shiftLeft_eq]

@[simp] theorem lowByte_toNat (w : Word16) : (lowByte w).toNat = w.toNat % 256 := by
  simp [lowByte]

@[simp] theorem highByte_toNat (w : Word16) : (highByte w).toNat = w.toNat / 256 := by
  have := w.isLt
  simp [highByte, Nat.shiftRight_eq_div_pow]
  omega

@[simp] theorem lowByte_cat16 (hi lo : Byte) : lowByte (cat16 hi lo) = lo := by
  have := lo.isLt
  apply BitVec.eq_of_toNat_eq
  rw [lowByte_toNat, cat16_toNat]
  omega

@[simp] theorem highByte_cat16 (hi lo : Byte) : highByte (cat16 hi lo) = hi := by
  have := lo.isLt
  apply BitVec.eq_of_toNat_eq
  rw [highByte_toNat, cat16_toNat]
  omega

@[simp] theorem cat16_highByte_lowByte (w : Word16) : cat16 (highByte w) (lowByte w) = w := by
  apply BitVec.eq_of_toNat_eq
  rw [cat16_toNat, highByte_toNat, lowByte_toNat]
  omega

end Sys2Proof.Machine
end

