-- ==== Sys2Proof/Laws/Unescape.lean ====
section
/-! SUPPORT. What decoding at each level and one iteration of the Unescape pass can do, and how a pass runs over a
concatenation (rule R106). -/

namespace Sys2Proof

@[simp] theorem decodeArrival_sentinel : decodeArrival sentinel = .flag := rfl

theorem decodeArrival_other {b : Byte} (h : b ≠ sentinel) : decodeArrival b = .append b := by
  simp [decodeArrival, h]

/-- The merged map is the sentinel test before the level 2 map. -/
theorem decodeStream_eq (esc : Bool) (b : Byte) :
    decodeStream esc b = if b = sentinel then .flag else decodePass esc b := by
  unfold decodeStream byteClass decodePass
  by_cases h : b = sentinel
  · simp [h]
  · by_cases h' : b = escapeMarker
    · subst h'; cases esc <;> rfl
    · cases esc <;> simp [h, h']

@[simp] theorem decodeIn_pass (esc : Bool) (b : Byte) : decodeIn (.pass esc) b = decodePass esc b := by
  cases esc <;> rfl

@[simp] theorem decodeIn_stream (esc : Bool) (b : Byte) : decodeIn (.stream esc) b = decodeStream esc b := by
  cases esc <;> rfl

/-- A level 2 symbol is one of the three. -/
theorem decodePass_cases (esc : Bool) (b : Byte) :
    (esc = true ∧ decodePass esc b = .xlit b) ∨
    (esc = false ∧ b = escapeMarker ∧ decodePass esc b = .escm) ∨
    (esc = false ∧ b ≠ escapeMarker ∧ decodePass esc b = .lit b) := by
  cases esc
  · by_cases h : b = escapeMarker <;> simp [decodePass, h]
  · simp [decodePass]

theorem decodePass_ne_flag (esc : Bool) (b : Byte) : decodePass esc b ≠ .flag := by
  obtain ⟨-, h⟩ | ⟨-, -, h⟩ | ⟨-, -, h⟩ := decodePass_cases esc b <;> simp [h]

@[simp] theorem decodePass_level (esc : Bool) (b : Byte) : (decodePass esc b).level = .unescape := by
  obtain ⟨-, h⟩ | ⟨-, -, h⟩ | ⟨-, -, h⟩ := decodePass_cases esc b <;> simp [h, Instr.level]

end Sys2Proof

namespace Sys2Proof.Machine

@[simp] theorem Pass.start_out : Pass.start.out = [] := rfl
@[simp] theorem Pass.start_esc : Pass.start.esc = false := rfl
@[simp] theorem Pass.xlit_out (p : Pass) (b : Byte) : (p.xlit b).out = p.out ++ [escapedOperand b] := rfl
@[simp] theorem Pass.xlit_esc (p : Pass) (b : Byte) : (p.xlit b).esc = false := rfl
@[simp] theorem Pass.escm_out (p : Pass) : p.escm.out = p.out := rfl
@[simp] theorem Pass.escm_esc (p : Pass) : p.escm.esc = true := rfl
@[simp] theorem Pass.lit_out (p : Pass) (b : Byte) : (p.lit b).out = p.out ++ [b] := rfl
@[simp] theorem Pass.lit_esc (p : Pass) (b : Byte) : (p.lit b).esc = p.esc := rfl

/-- The three cases of rule R101, in its order. -/
theorem Pass.step_eq (p : Pass) (b : Byte) :
    p.step b = if p.esc then p.xlit b else if b = escapeMarker then p.escm else p.lit b := by
  unfold Pass.step
  obtain ⟨h, e⟩ | ⟨h, h', e⟩ | ⟨h, h', e⟩ := decodePass_cases p.esc b
  · rw [e]; simp [h]
  · rw [e]; simp [h, h']
  · rw [e]; simp [h, h']

theorem Pass.step_escaping {p : Pass} (h : p.esc = true) (b : Byte) : p.step b = p.xlit b := by
  simp [Pass.step_eq, h]

theorem Pass.step_marker {p : Pass} (h : p.esc = false) : p.step escapeMarker = p.escm := by
  simp [Pass.step_eq, h]

theorem Pass.step_literal {p : Pass} {b : Byte} (h : p.esc = false) (hb : b ≠ escapeMarker) :
    p.step b = p.lit b := by
  simp [Pass.step_eq, h, hb]

/-- The flag after an iteration is the one its symbol leaves. -/
theorem Pass.step_esc (p : Pass) (b : Byte) : (p.step b).esc = (decodePass p.esc b).escAfter p.esc := by
  unfold Pass.step
  obtain ⟨h, e⟩ | ⟨h, h', e⟩ | ⟨h, h', e⟩ := decodePass_cases p.esc b <;>
    rw [e] <;> simp [Instr.escAfter, h]

@[simp] theorem Pass.over_nil (p : Pass) : p.over [] = p := rfl
@[simp] theorem Pass.over_cons (p : Pass) (b : Byte) (bs : List Byte) : p.over (b :: bs) = (p.step b).over bs := rfl

@[simp] theorem Pass.over_append (p : Pass) (x y : List Byte) : p.over (x ++ y) = (p.over x).over y := by
  simp [Pass.over, List.foldl_append]

@[simp] theorem unescape_nil : unescape [] = Pass.start := rfl

theorem unescape_append (x y : List Byte) : unescape (x ++ y) = (unescape x).over y :=
  Pass.over_append _ x y

/-- What an iteration appends depends on the flag alone. -/
theorem Pass.step_shift (p : Pass) (b : Byte) :
    p.step b = { out := p.out ++ (Pass.step { out := [], esc := p.esc } b).out
                 esc := (Pass.step { out := [], esc := p.esc } b).esc } := by
  simp only [Pass.step_eq]
  split
  · simp [Pass.xlit]
  · split <;> simp [Pass.escm, Pass.lit]

/-- A pass appends to what is there what it would write from an empty output. -/
theorem Pass.over_shift (bytes : List Byte) (p : Pass) :
    p.over bytes = { out := p.out ++ (Pass.over { out := [], esc := p.esc } bytes).out
                     esc := (Pass.over { out := [], esc := p.esc } bytes).esc } := by
  induction bytes generalizing p with
  | nil => simp
  | cons b bs ih =>
    rw [Pass.over_cons, Pass.over_cons, ih, ih (Pass.step { out := [], esc := p.esc } b), Pass.step_shift]
    simp

/-- From a clear flag, a pass over bytes without a marker appends them unchanged. -/
theorem Pass.over_literal {bytes : List Byte} (h : escapeMarker ∉ bytes) {p : Pass} (hp : p.esc = false) :
    p.over bytes = { out := p.out ++ bytes, esc := false } := by
  induction bytes generalizing p with
  | nil => cases p; simp_all
  | cons b bs ih =>
    simp only [List.mem_cons, not_or] at h
    rw [Pass.over_cons, Pass.step_literal hp (Ne.symm h.1), ih h.2 (by simpa using hp)]
    simp

/-- From a clear flag, a pass undoes the stuffing of one byte. -/
theorem Pass.over_stuffByte (b : Byte) {p : Pass} (hp : p.esc = false) : p.over (stuffByte b) = p.lit b := by
  unfold stuffByte
  split
  · rw [Pass.over_cons, Pass.step_marker hp, Pass.over_cons, Pass.step_escaping rfl]
    simp [Pass.xlit, Pass.escm, Pass.lit, escapedOperand, hp]
  · rename_i h
    simp only [not_or] at h
    rw [Pass.over_cons, Pass.step_literal hp h.2, Pass.over_nil]

@[simp] theorem exec_xlit (b : Byte) (s : State) : exec (.xlit b) s = .next (s.withPass (s.pass.xlit b)) := rfl
@[simp] theorem exec_escm (s : State) : exec .escm s = .next (s.withPass s.pass.escm) := rfl
@[simp] theorem exec_lit (b : Byte) (s : State) : exec (.lit b) s = .next (s.withPass (s.pass.lit b)) := rfl

/-- A level 2 symbol is one iteration of the pass on the state's output store and flag. -/
theorem exec_decodePass (b : Byte) (s : State) :
    exec (decodePass s.esc b) s = .next (s.withPass (s.pass.step b)) := by
  obtain ⟨h, e⟩ | ⟨h, h', e⟩ | ⟨h, h', e⟩ := decodePass_cases s.esc b
  · rw [e, Pass.step_escaping h]; rfl
  · rw [e, h', Pass.step_marker (p := s.pass) h]; rfl
  · rw [e, Pass.step_literal h h']; rfl

end Sys2Proof.Machine
end

