-- ==== Sys2Proof/Laws/Deliver.lean ====
section
/-! SUPPORT. The split of a frame, and everything that Deliver, `FLAG` and `APPEND` can do, said once. -/

namespace Sys2Proof.Machine

theorem splitFrame_eq_none {frame : List Byte} : splitFrame frame = none ↔ frame.length < 2 := by
  unfold splitFrame trailerLen
  split <;> simp_all

theorem splitFrame_append (p : Payload) (t0 t1 : Byte) :
    splitFrame (p ++ [t0, t1]) = some (p, { t0 := t0, t1 := t1 }) := by
  simp [splitFrame, trailerLen]

/-- A frame is split into what it was put together from (rule R90). -/
theorem splitFrame_eq_some {frame : List Byte} {p : Payload} {t : Trailer} :
    splitFrame frame = some (p, t) ↔ frame = p ++ [t.t0, t.t1] := by
  constructor
  · intro h
    have hlen : 2 ≤ frame.length := by
      by_contra hc
      rw [splitFrame_eq_none.2 (by omega)] at h
      cases h
    have hd : (frame.drop (frame.length - 2)).length = 2 := by simp; omega
    obtain ⟨a, b, hab⟩ : ∃ a b, frame.drop (frame.length - 2) = [a, b] := by
      match hm : frame.drop (frame.length - 2), hd with
      | [a, b], _ => exact ⟨a, b, rfl⟩
    have hf : frame = frame.take (frame.length - 2) ++ [a, b] := by
      rw [← hab, List.take_append_drop]
    rw [hf, splitFrame_append] at h
    cases h
    exact hf
  · rintro rfl
    exact splitFrame_append _ _ _

/-- Every frame is shorter than a trailer, or a payload and a trailer. -/
theorem frame_cases (frame : List Byte) :
    (frame.length < 2 ∧ splitFrame frame = none) ∨
    ∃ p t0 t1, frame = p ++ [t0, t1] ∧ splitFrame frame = some (p, { t0 := t0, t1 := t1 }) := by
  cases h : splitFrame frame with
  | none => exact .inl ⟨splitFrame_eq_none.1 h, rfl⟩
  | some r =>
    obtain ⟨p, t⟩ := r
    exact .inr ⟨p, t.t0, t.t1, splitFrame_eq_some.1 h, rfl⟩

theorem State.report_eq (s : State) (d : Diag) :
    s.report d = { s with diagq := s.diagq ++ (if d.isMismatch then [d] else [])
                          events := s.events ++ (if d.isMismatch then [.record d] else []) } := by
  unfold State.report State.notify
  split <;> simp

theorem State.forward_eq (s : State) (p : Payload) :
    s.forward p = { s with outq := s.outq ++ (if p.isEmpty then [] else [p])
                           events := s.events ++ (if p.isEmpty then [] else [.payload p]) } := by
  unfold State.forward State.emit
  split <;> simp

/-- Deliver from its step 2 on does to the queues what `FrameResult` says, the record first, and clears the frame. -/
theorem State.deliverFrame_eq (s : State) (frame : List Byte) :
    s.deliverFrame frame =
      { s with
        abuf := [], esc := false, ubuf := [], rawLen := 0
        outq := s.outq ++ (frameResultOf s.cfg.trailerMode frame).out.toList
        diagq := s.diagq ++ (frameResultOf s.cfg.trailerMode frame).diag.toList
        events := s.events ++ (frameResultOf s.cfg.trailerMode frame).diag.toList.map .record
          ++ (frameResultOf s.cfg.trailerMode frame).out.toList.map .payload } := by
  unfold State.deliverFrame frameResultOf
  cases h : splitFrame frame with
  | none => simp [State.clearFrame]
  | some r =>
    obtain ⟨p, t⟩ := r
    simp only [State.report_eq, State.forward_eq, State.clearFrame]
    cases (frameDiag s.cfg.trailerMode p t).isMismatch <;> cases p.isEmpty <;> simp

/-- The frame that a sentinel closes, whatever the organisation. -/
@[simp] theorem State.openFrame_ubuf (s : State) : s.openFrame.ubuf = s.frameNow := by
  unfold State.openFrame State.frameNow
  cases h : s.cfg.form <;> simp

/-- Deliver does to the queues what `FrameResult` says of the frame, the record first, and clears the frame. -/
theorem State.deliver_eq (s : State) :
    s.deliver =
      { s with
        abuf := [], esc := false, ubuf := [], rawLen := 0
        outq := s.outq ++ (frameResultOf s.cfg.trailerMode s.frameNow).out.toList
        diagq := s.diagq ++ (frameResultOf s.cfg.trailerMode s.frameNow).diag.toList
        events := s.events ++ (frameResultOf s.cfg.trailerMode s.frameNow).diag.toList.map .record
          ++ (frameResultOf s.cfg.trailerMode s.frameNow).out.toList.map .payload } := by
  unfold State.deliver
  rw [State.deliverFrame_eq, State.openFrame_ubuf]
  unfold State.openFrame
  cases s.cfg.form <;> rfl

/-- What is emitted does not depend on the trailer mode (rule R99). -/
theorem frameResultOf_out_mode (m m' : TrailerMode) (frame : List Byte) :
    (frameResultOf m frame).out = (frameResultOf m' frame).out := by
  unfold frameResultOf
  cases splitFrame frame <;> rfl

theorem frameResultOf_short (m : TrailerMode) {frame : List Byte} (h : frame.length < 2) :
    frameResultOf m frame = { diag := none, out := none, verdict := .undersized } := by
  simp [frameResultOf, splitFrame_eq_none.2 h]

/-- A payload is emitted just for a frame of three or more bytes (rule R94). -/
theorem frameResultOf_out_isSome (m : TrailerMode) (frame : List Byte) :
    (frameResultOf m frame).out.isSome = decide (3 ≤ frame.length) := by
  obtain ⟨h, e⟩ | ⟨p, t0, t1, rfl, e⟩ := frame_cases frame
  · simp [frameResultOf, e]; omega
  · unfold frameResultOf
    rw [e]
    cases p <;> simp

/-- A frame's payload is not empty. -/
theorem frameResultOf_out_ne_nil {m : TrailerMode} {frame : List Byte} {p : Payload}
    (h : (frameResultOf m frame).out = some p) : p ≠ [] := by
  unfold frameResultOf at h
  split at h
  · cases h
  · simp only at h
    split at h
    · cases h
    · cases h; simp_all

/-- A frame's record is a true one. -/
theorem frameResultOf_diag_sound {m : TrailerMode} {frame : List Byte} {d : Diag}
    (h : (frameResultOf m frame).diag = some d) : d.Sound m := by
  unfold frameResultOf at h
  split at h
  · cases h
  · rename_i p t _
    simp only at h
    split at h
    · rename_i hm
      cases h
      refine ⟨rfl, by simpa [Diag.isMismatch, mismatch] using hm, ?_⟩
      rintro rfl
      simp [frameDiag, decodeTrailer, zext16]
      have := t.t1.isLt
      omega
    · cases h

theorem State.mustEmit_eq (s : State) : s.mustEmit = decide (3 ≤ s.frameNow.length) := by
  simp [State.mustEmit, frameResultOf_out_isSome]

/-- A sentinel waits exactly when OUT is full and its frame has a payload (rule R47). -/
theorem State.blocked_eq (s : State) : s.blocked = (s.outFull && decide (3 ≤ s.frameNow.length)) := by
  simp [State.blocked, State.mustEmit_eq]

@[simp] theorem State.frameNow_withAgenda (s : State) (ms : List HostMove) : (s.withAgenda ms).frameNow = s.frameNow := rfl
@[simp] theorem State.outFull_withAgenda (s : State) (ms : List HostMove) : (s.withAgenda ms).outFull = s.outFull := rfl
@[simp] theorem State.blocked_withAgenda (s : State) (ms : List HostMove) : (s.withAgenda ms).blocked = s.blocked := by
  rw [State.blocked_eq, State.blocked_eq]; rfl

@[simp] theorem Event.payload?_record (d : Diag) : (Event.record d).payload? = none := rfl
@[simp] theorem Event.payload?_payload (p : Payload) : (Event.payload p).payload? = some p := rfl
@[simp] theorem Event.record?_record (d : Diag) : (Event.record d).record? = some d := rfl
@[simp] theorem Event.record?_payload (p : Payload) : (Event.payload p).record? = none := rfl

theorem atCapacity_eq_false {cap : Option Nat} {n : Nat} :
    atCapacity cap n = false ↔ ∀ m, cap = some m → n < m := by
  cases cap <;> simp [atCapacity]

theorem atCapacity_eq_true {cap : Option Nat} {n : Nat} :
    atCapacity cap n = true ↔ ∃ m, cap = some m ∧ m ≤ n := by
  cases cap <;> simp [atCapacity]

theorem exec_flag_blocked {s : State} (h : s.blocked = true) : exec .flag s = .next s := by
  simp [exec, execFlag, h]

theorem exec_flag_clear {s : State} (h : s.blocked = false) : exec .flag s = .next s.deliver.consumed := by
  simp [exec, execFlag, h]

theorem exec_append_full {s : State} (h : atCapacity s.cfg.abufCap s.abuf.length = true) (b : Byte) :
    exec (.append b) s = .refused .abufOverflow := by
  simp [exec, execAppend, h]

theorem exec_append_room {s : State} (h : atCapacity s.cfg.abufCap s.abuf.length = false) (b : Byte) :
    exec (.append b) s = .next (s.appendRaw b).consumed := by
  simp [exec, execAppend, h]

end Sys2Proof.Machine
end

