-- ==== Sys2Proof/Laws/PerInstr.lean ====
section
/-! SUPPORT. Per-instruction family FitsSomewhere: a term is well formed just when some context decodes a byte to it. -/

namespace Sys2Proof.Laws.FitsSomewhere

/-- The family's statement about one instruction. -/
def Statement (i : Instr) : Prop :=
  i.wf = true ↔ ∃ c, Instr.fits c i = true

theorem flag : Statement .flag :=
  ⟨fun _ => ⟨.arrival, rfl⟩, fun _ => rfl⟩

theorem append (b : Byte) : Statement (.append b) :=
  ⟨fun h => ⟨.arrival, h⟩, by rintro ⟨c, h⟩; cases c <;> first | exact h | cases h⟩

theorem xlit (b : Byte) : Statement (.xlit b) :=
  ⟨fun _ => ⟨.passEscaping, rfl⟩, fun _ => rfl⟩

theorem escm : Statement .escm :=
  ⟨fun _ => ⟨.passClear, rfl⟩, fun _ => rfl⟩

theorem lit (b : Byte) : Statement (.lit b) :=
  ⟨fun h => ⟨.passClear, h⟩, by
    rintro ⟨c, h⟩
    cases c <;> simp_all [Instr.fits, Instr.wf]⟩

end Sys2Proof.Laws.FitsSomewhere
end

