-- ==== Sys2Proof/Laws/Step.lean ====
section
/-! SUPPORT. What the byte step and one step of the machine can do: one case for each thing that can happen, guards
included. A proof about `step` cites `byteStep_cases` and `step_cases` rather than unfold them. -/

namespace Sys2Proof.Machine

@[simp] theorem onNext_next (f : State → State) (s : State) : onNext f (.next s) = .next (f s) := rfl
@[simp] theorem onNext_refused (f : State → State) (r : Refusal) : onNext f (.refused r) = .refused r := rfl
@[simp] theorem onNext_id (o : Host.Outcome State Fault Refusal) : onNext (fun s => s) o = o := by
  cases o <;> rfl

theorem State.context_reference {s : State} (h : s.cfg.form = .reference) : s.context = .arrival := by
  simp [State.context, h]

theorem State.context_streaming {s : State} (h : s.cfg.form = .streaming) : s.context = .stream s.esc := by
  simp [State.context, h]

/-- Whatever the organisation, a byte on IN is a sentinel exactly when it is 0x7E (rule R143). -/
theorem decodeIn_context_flag (s : State) (b : Byte) : decodeIn s.context b = .flag ↔ b = sentinel := by
  cases h : s.cfg.form
  · rw [State.context_reference h]
    by_cases hb : b = sentinel <;> simp [decodeIn, decodeArrival, hb]
  · rw [State.context_streaming h, decodeIn_stream, decodeStream_eq]
    by_cases hb : b = sentinel <;> simp [hb, decodePass_ne_flag]

/-- The run of the organisation is at a finite `ABUF_CAP`. -/
def State.runFull (s : State) : Bool :=
  match s.cfg.form with
  | .reference => atCapacity s.cfg.abufCap s.abuf.length
  | .streaming => atCapacity s.cfg.abufCap s.rawLen

/-- What a non-sentinel byte does to the store of the organisation. -/
def State.taken (s : State) (b : Byte) : State :=
  match s.cfg.form with
  | .reference => (s.appendRaw b).consumed
  | .streaming => (s.withPass (s.pass.step b)).consumedStream

theorem State.taken_reference {s : State} (h : s.cfg.form = .reference) (b : Byte) :
    s.taken b = (s.appendRaw b).consumed := by
  simp [State.taken, h]

theorem State.taken_streaming {s : State} (h : s.cfg.form = .streaming) (b : Byte) :
    s.taken b = (s.withPass (s.pass.step b)).consumedStream := by
  simp [State.taken, h]

/-! ### What a non-sentinel byte never touches -/

@[simp] theorem State.taken_outq (s : State) (b : Byte) : (s.taken b).outq = s.outq := by
  unfold State.taken
  split <;> rfl
@[simp] theorem State.taken_diagq (s : State) (b : Byte) : (s.taken b).diagq = s.diagq := by
  unfold State.taken
  split <;> rfl
@[simp] theorem State.taken_events (s : State) (b : Byte) : (s.taken b).events = s.events := by
  unfold State.taken
  split <;> rfl
@[simp] theorem State.taken_cfg (s : State) (b : Byte) : (s.taken b).cfg = s.cfg := by
  unfold State.taken
  split <;> rfl
@[simp] theorem State.taken_agenda (s : State) (b : Byte) : (s.taken b).agenda = s.agenda := by
  unfold State.taken
  split <;> rfl
@[simp] theorem State.taken_outTaken (s : State) (b : Byte) : (s.taken b).outTaken = s.outTaken := by
  unfold State.taken
  split <;> rfl
@[simp] theorem State.taken_diagTaken (s : State) (b : Byte) : (s.taken b).diagTaken = s.diagTaken := by
  unfold State.taken
  split <;> rfl
@[simp] theorem State.taken_torn (s : State) (b : Byte) : (s.taken b).torn = s.torn := by
  unfold State.taken
  split <;> rfl
@[simp] theorem State.taken_past (s : State) (b : Byte) : (s.taken b).past = s.past := by
  unfold State.taken
  split <;> rfl
@[simp] theorem State.taken_pos (s : State) (b : Byte) : (s.taken b).pos = s.pos + 1 := by
  unfold State.taken
  split <;> rfl
theorem State.taken_withAgenda (s : State) (ms : List HostMove) (b : Byte) :
    (s.withAgenda ms).taken b = (s.taken b).withAgenda ms := by
  unfold State.taken
  cases h : s.cfg.form <;> simp [h] <;> rfl
theorem State.deliver_withAgenda (s : State) (ms : List HostMove) :
    (s.withAgenda ms).deliver = s.deliver.withAgenda ms := by
  rw [State.deliver_eq, State.deliver_eq]; rfl

theorem byteStep_torn {s : State} (h : s.torn = true) (b : Byte) : byteStep b s = .refused .feedAfterTeardown := by
  simp [byteStep, h]

theorem byteStep_sentinel {s : State} (h : s.torn = false) : byteStep sentinel s = exec .flag s := by
  rw [byteStep, if_neg (by simp [h]), (decodeIn_context_flag s sentinel).2 rfl]
  exact onNext_id _

theorem byteStep_full {s : State} {b : Byte} (h : s.torn = false) (hb : b ≠ sentinel) (hf : s.runFull = true) :
    byteStep b s = .refused .abufOverflow := by
  rw [byteStep, if_neg (by simp [h])]
  unfold State.runFull at hf
  cases hc : s.cfg.form <;> rw [hc] at hf
  · rw [State.context_reference hc]
    show symbolStep (decodeArrival b) s = _
    rw [decodeArrival_other hb]
    show onNext _ (exec (.append b) s) = _
    rw [exec_append_full hf]; rfl
  · rw [State.context_streaming hc, decodeIn_stream, decodeStream_eq, if_neg hb, symbolStep, decodePass_level]
    rw [if_pos (by simpa [State.streamOverflow] using hf)]

theorem byteStep_room {s : State} {b : Byte} (h : s.torn = false) (hb : b ≠ sentinel) (hf : s.runFull = false) :
    byteStep b s = .next (s.taken b) := by
  rw [byteStep, if_neg (by simp [h])]
  unfold State.runFull at hf
  cases hc : s.cfg.form <;> rw [hc] at hf
  · rw [State.context_reference hc, State.taken_reference hc]
    show symbolStep (decodeArrival b) s = _
    rw [decodeArrival_other hb]
    show onNext (fun s => s) (exec (.append b) s) = _
    rw [exec_append_room hf, onNext_id]
  · rw [State.context_streaming hc, decodeIn_stream, decodeStream_eq, if_neg hb, symbolStep, decodePass_level,
      State.taken_streaming hc, if_neg (by simpa [State.streamOverflow] using hf), exec_decodePass]
    rfl

theorem State.waitsOn_eq (s : State) (b : Byte) :
    s.waitsOn b = (!s.torn && decide (b = sentinel) && s.blocked) := by
  unfold State.waitsOn
  simp [decodeIn_context_flag]

theorem State.waitsOn_iff {s : State} {b : Byte} :
    s.waitsOn b = true ↔ s.torn = false ∧ b = sentinel ∧ s.blocked = true := by
  simp [State.waitsOn_eq, and_assoc]

@[simp] theorem State.waitsOn_withAgenda (s : State) (ms : List HostMove) (b : Byte) :
    (s.withAgenda ms).waitsOn b = s.waitsOn b := by
  simp [State.waitsOn_eq]

/-- Everything a byte step that need not wait can do. -/
theorem byteStep_cases (s : State) (b : Byte) (hw : s.waitsOn b = false) :
    (s.torn = true ∧ byteStep b s = .refused .feedAfterTeardown) ∨
    (s.torn = false ∧ b = sentinel ∧ s.blocked = false ∧ byteStep b s = .next s.deliver.consumed) ∨
    (s.torn = false ∧ b ≠ sentinel ∧ s.runFull = true ∧ byteStep b s = .refused .abufOverflow) ∨
    (s.torn = false ∧ b ≠ sentinel ∧ s.runFull = false ∧ byteStep b s = .next (s.taken b)) := by
  cases ht : s.torn
  · by_cases hb : b = sentinel
    · subst hb
      have hbl : s.blocked = false := by simpa [State.waitsOn_eq, ht] using hw
      exact .inr (.inl ⟨rfl, rfl, hbl, by rw [byteStep_sentinel ht, exec_flag_clear hbl]⟩)
    · cases hf : s.runFull
      · exact .inr (.inr (.inr ⟨rfl, hb, rfl, byteStep_room ht hb hf⟩))
      · exact .inr (.inr (.inl ⟨rfl, hb, rfl, byteStep_full ht hb hf⟩))
  · exact .inl ⟨rfl, byteStep_torn ht b⟩

/-- A byte step neither reads nor writes the host's further moves. -/
theorem byteStep_withAgenda {s : State} {b : Byte} (hw : s.waitsOn b = false) (ms : List HostMove) :
    byteStep b (s.withAgenda ms) = onNext (fun t => t.withAgenda ms) (byteStep b s) := by
  have hr : (s.withAgenda ms).runFull = s.runFull := rfl
  obtain ⟨ht, e⟩ | ⟨ht, rfl, hb, e⟩ | ⟨ht, hb, hf, e⟩ | ⟨ht, hb, hf, e⟩ := byteStep_cases s b hw
  · rw [e, byteStep_torn (s := s.withAgenda ms) ht]; rfl
  · rw [e, byteStep_sentinel (s := s.withAgenda ms) ht, exec_flag_clear (by simpa using hb), State.deliver_withAgenda]; rfl
  · rw [e, byteStep_full (s := s.withAgenda ms) ht hb (hr.trans hf)]; rfl
  · rw [e, byteStep_room (s := s.withAgenda ms) ht hb (hr.trans hf), State.taken_withAgenda]; rfl

/-- Taking a move out of the agenda leaves a shorter one, and the move is no byte. -/
theorem firstOtherMove_ne_byte {ms ms' : List HostMove} {m : HostMove} (h : firstOtherMove ms = some (m, ms')) :
    ∀ b, m ≠ .byte b := by
  induction ms generalizing m ms' with
  | nil => cases h
  | cons a as ih =>
    cases a with
    | byte b =>
      simp only [firstOtherMove, Option.map_eq_some_iff] at h
      obtain ⟨⟨m1, r1⟩, h1, h2⟩ := h
      cases h2
      exact ih h1
    | popOut c => cases h; simp
    | popDiag => cases h; simp
    | teardown => cases h; simp
    | reset => cases h; simp

/-- Bytes alone hold no other move. -/
@[simp] theorem firstOtherMove_bytes (bytes : List Byte) : firstOtherMove (bytes.map .byte) = none := by
  induction bytes with
  | nil => rfl
  | cons b bs ih => simp [firstOtherMove, ih]

/-- The bytes before the first other move stay queued, in order. -/
@[simp] theorem firstOtherMove_bytes_append (bytes : List Byte) (ms : List HostMove) :
    firstOtherMove (bytes.map .byte ++ ms) = (firstOtherMove ms).map fun r => (r.1, bytes.map .byte ++ r.2) := by
  induction bytes with
  | nil => simp
  | cons b bs ih => simp [firstOtherMove, ih, Function.comp_def]

/-- Everything a step can do. -/
theorem step_cases (s : State) :
    (s.agenda = [] ∧ step s = .next s) ∨
    (∃ b ms, s.agenda = .byte b :: ms ∧ s.waitsOn b = false ∧ step s = byteStep b (s.withAgenda ms)) ∨
    (∃ c ms, step s = .next ((s.withAgenda ms).popOut c)) ∨
    (∃ ms, step s = .next (s.withAgenda ms).popDiag) ∨
    (∃ ms, s.agenda = .teardown :: ms ∧ step s = .next (s.withAgenda ms).tearDown) ∨
    (∃ ms, s.agenda = .reset :: ms ∧ step s = .next (s.withAgenda ms).hostReset) ∨
    (∃ b ms, s.agenda = .byte b :: ms ∧ s.waitsOn b = true ∧
      (step s = .next s ∨ step s = .refused .closeDuringFeed ∨ step s = .refused .resetInsideByteStep)) := by
  unfold step hostStep
  cases ha : s.agenda with
  | nil => exact .inl ⟨rfl, rfl⟩
  | cons m ms =>
    cases m with
    | byte b =>
      cases hw : s.waitsOn b
      · exact .inr (.inl ⟨b, ms, rfl, hw, by simp [hw]⟩)
      · simp only [hw, if_true]
        unfold waitingStep
        rw [ha]
        cases hf : firstOtherMove (.byte b :: ms) with
        | none => exact .inr (.inr (.inr (.inr (.inr (.inr ⟨b, ms, rfl, hw, .inl rfl⟩)))))
        | some r =>
          obtain ⟨m, r⟩ := r
          cases m with
          | byte b' => exact absurd rfl (firstOtherMove_ne_byte hf b')
          | popOut c => exact .inr (.inr (.inl ⟨c, r, rfl⟩))
          | popDiag => exact .inr (.inr (.inr (.inl ⟨r, rfl⟩)))
          | teardown => exact .inr (.inr (.inr (.inr (.inr (.inr ⟨b, ms, rfl, hw, .inr (.inl rfl)⟩)))))
          | reset => exact .inr (.inr (.inr (.inr (.inr (.inr ⟨b, ms, rfl, hw, .inr (.inr rfl)⟩)))))
    | popOut c => exact .inr (.inr (.inl ⟨c, ms, rfl⟩))
    | popDiag => exact .inr (.inr (.inr (.inl ⟨ms, rfl⟩)))
    | teardown => exact .inr (.inr (.inr (.inr (.inl ⟨ms, rfl, rfl⟩))))
    | reset => exact .inr (.inr (.inr (.inr (.inr (.inl ⟨ms, rfl, rfl⟩)))))

/-- A presented byte that need not wait is taken. -/
theorem step_byte {s : State} {b : Byte} {ms : List HostMove} (ha : s.agenda = .byte b :: ms)
    (hw : s.waitsOn b = false) : step s = byteStep b (s.withAgenda ms) := by
  unfold step hostStep
  rw [ha]
  simp [hw]

/-- A sentinel that waits leaves the step to the host's other moves. -/
theorem step_waits {s : State} {b : Byte} {ms : List HostMove} (ha : s.agenda = .byte b :: ms)
    (hw : s.waitsOn b = true) : step s = waitingStep s := by
  unfold step hostStep
  rw [ha]
  simp [hw]

/-- One more step of a run of the machine, when the step gives a next state. -/
theorem core_run_succ {s t : State} (h : step s = .next t) (n : Nat) :
    Sys2Proof.core.run (n + 1) s = Sys2Proof.core.run n t := by
  have unfolds : ∀ (M : Host.Core) (x y : M.State), M.step x = .next y → M.run (n + 1) x = M.run n y := by
    intro M x y hxy
    rw [Host.Core.run, hxy]
  exact unfolds Sys2Proof.core s t h

@[simp] theorem core_run_zero (s : State) : Sys2Proof.core.run 0 s = .next s := rfl

/-- What `popOut` can do. -/
theorem State.popOut_cases (s : State) (c : Nat) :
    (s.outq[s.outTaken.length]? = none ∧ s.popOut c = s) ∨
    ∃ p, s.outq[s.outTaken.length]? = some p ∧ s.popOut c = { s with outTaken := s.outTaken ++ [(c, p)] } := by
  unfold State.popOut
  cases h : s.outq[s.outTaken.length]? <;> simp

/-- A pop leaves one payload fewer in OUT, if it holds any. -/
@[simp] theorem State.popOut_outHeld (s : State) (c : Nat) : (s.popOut c).outHeld = s.outHeld - 1 := by
  obtain ⟨h, e⟩ | ⟨p, h, e⟩ := s.popOut_cases c
  · rw [e]
    have := List.getElem?_eq_none_iff.1 h
    unfold State.outHeld
    omega
  · rw [e]
    simp [State.outHeld]
    omega

/-- The consumers see OUT closed exactly when the block is torn down and OUT is drained (rule R158). -/
theorem State.seenClosed_iff (s : State) : s.seenClosed = true ↔ s.torn = true ∧ s.outHeld = 0 := by
  simp [State.seenClosed]

/-- What `popDiag` can do. -/
theorem State.popDiag_cases (s : State) :
    (s.diagq[s.diagTaken.length]? = none ∧ s.popDiag = s) ∨
    ∃ d, s.diagq[s.diagTaken.length]? = some d ∧ s.popDiag = { s with diagTaken := s.diagTaken ++ [d] } := by
  unfold State.popDiag
  cases h : s.diagq[s.diagTaken.length]? <;> simp

end Sys2Proof.Machine
end

