-- ==== Sys2Proof/Tests/Slice0.lean ====
section
/-! SUPPORT. Tests on fixed values and the witnesses of the statements' hypotheses. Expected values come from the spec:
the opcode rows of 30_encoding.md section 2 and the vectors of 95_test_vectors.md, named in each comment. -/

namespace Sys2Proof.Tests

open Sys2Proof.Machine

/-! ## Small states -/

/-- A block with given parameters and a given raw frame in `ABUF`. -/
def holding (m : TrailerMode) (raw : List Byte) : State :=
  { State.resetWith { Config.default with trailerMode := m } with abuf := raw }

/-- The same in the streaming form, with what it has unescaped. -/
def streaming (m : TrailerMode) (p : Pass) (taken : Nat) : State :=
  { State.resetWith { Config.default with trailerMode := m, form := .streaming } with
    ubuf := p.out, esc := p.esc, rawLen := taken }

/-- A block whose OUT holds one payload and has room for no more. -/
def fullOut (raw : List Byte) : State :=
  { State.resetWith { Config.default with outqCap := some 1 } with
    abuf := raw, outq := [[0x41]], events := [.payload [0x41]] }

/-- A block whose `ABUF_CAP` is 2. -/
def smallBuffer (raw : List Byte) : State :=
  { State.resetWith { Config.default with abufCap := some 2 } with abuf := raw }

/-- The next state of an outcome, if there is one. -/
def after : Host.Outcome State Fault Refusal → Option State
  | .next s => some s
  | .fault _ => none
  | .refused _ => none

/-- The refusal of an outcome, if it is one. -/
def stopped : Host.Outcome State Fault Refusal → Option Refusal
  | .next _ => none
  | .fault _ => none
  | .refused r => some r

/-! ## WellFormed refuses what no byte stands for -/

theorem test_wf_append_sentinel : Instr.wf (.append 0x7E) = false := by decide
theorem test_wf_lit_marker : Instr.wf (.lit 0x7D) = false := by decide
theorem test_fits_arrival_lit : Instr.fits .arrival (.lit 0x41) = false := by decide
theorem test_fits_pass_flag : Instr.fits .passClear .flag = false := by decide
theorem test_fits_escaping_escm : Instr.fits .passEscaping .escm = false := by decide
theorem test_fits_stream_xlit_sentinel : Instr.fits .streamEscaping (.xlit 0x7E) = false := by decide
theorem test_fits_stream_lit_sentinel : Instr.fits .streamClear (.lit 0x7E) = false := by decide
theorem test_legalRun_stacked_markers : legalRun false [.escm, .escm] = false := by decide
theorem test_legalRun_operand_without_marker : legalRun false [.xlit 0x5E] = false := by decide

/-! ## Decoding, bit by bit from 30_encoding.md rules R54 to R56 -/

theorem test_decode_flag : decodeArrival 0b01111110#8 = .flag := by decide
theorem test_decode_append_marker : decodeArrival 0b01111101#8 = .append 0x7D := by decide
theorem test_decode_append_neighbour : decodeArrival 0b01111111#8 = .append 0x7F := by decide
theorem test_decode_xlit : decodePass true 0b01111101#8 = .xlit 0x7D := by decide
theorem test_decode_escm : decodePass false 0b01111101#8 = .escm := by decide
theorem test_decode_lit : decodePass false 0b01011110#8 = .lit 0x5E := by decide
theorem test_decode_stream_sentinel_first : decodeStream true 0b01111110#8 = .flag := by decide
theorem test_class_neighbours : (byteClass 0x7E, byteClass 0x7D, byteClass 0x5E) = (.flag, .esc, .data) := by decide
theorem test_decodeFirst_nothing : decodeFirst .arrival [] = .error .noSymbol := rfl
theorem test_decodeFirst_rest : decodeFirst .arrival [0x7E, 0x41] = .ok (.flag, [0x41]) := rfl
theorem test_tableWord : (decodeTableWord 8 0x7E, decodeTableWord 8 0x80) = (some .flag, some (.append 0x80)) := by decide
theorem test_opcodeTable_rows : opcodeTable.length = 19 := by decide
/-- `Stuff` of every special byte: vector T15's raw frame. -/
theorem test_stuff : stuff [0x7E, 0x7D, 0x5E, 0x5D] = [0x7D, 0x5E, 0x7D, 0x5D, 0x5E, 0x5D] := by decide

/-! ## The five symbols -/

/-- Vector S1c: `41 42 7B 56` matches in mode B. -/
theorem test_flag_match :
    (after (exec .flag (holding .b [0x41, 0x42, 0x7B, 0x56]))).map (fun t => (t.outq, t.diagq, t.abuf, t.pos))
      = some ([[0x41, 0x42]], [], [], 1) := by decide +kernel

/-- Vector T6: two bytes give a record with an empty payload and no emission. -/
theorem test_flag_empty_payload :
    (after (exec .flag (holding .b [0x12, 0x34]))).map (fun t => (t.outq, t.diagq))
      = some ([], [{ computed := 0, received := 0x3412, payload := [] }]) := by decide

/-- Rule R74: the marker is stored raw. -/
theorem test_append_marker :
    (after (exec (.append 0x7D) (holding .a [0x41]))).map (fun t => (t.abuf, t.esc, t.pos))
      = some ([0x41, 0x7D], false, 1) := by decide

/-- Rule R166: the third byte of a run of at most two. -/
theorem test_append_overflow :
    stopped (exec (.append 0x43) (smallBuffer [0x41, 0x42])) = some .abufOverflow := by decide

/-- Rule R102: `5E` after a marker gives `7E`; vector U13: `FF` gives `DF`. -/
theorem test_xlit :
    (after (exec (.xlit 0x5E) (streaming .a ⟨[0x41], true⟩ 2))).map State.pass = some ⟨[0x41, 0x7E], false⟩ := by decide
theorem test_xlit_high :
    (after (exec (.xlit 0xFF) (streaming .a ⟨[], true⟩ 1))).map State.pass = some ⟨[0xDF], false⟩ := by decide

/-- Rule R103. -/
theorem test_escm :
    (after (exec .escm (streaming .a ⟨[0x41], false⟩ 1))).map State.pass = some ⟨[0x41], true⟩ := by decide

/-- Rule R104: `5E` is a literal. -/
theorem test_lit :
    (after (exec (.lit 0x5E) (streaming .a ⟨[0x41], false⟩ 1))).map State.pass = some ⟨[0x41, 0x5E], false⟩ := by decide

/-! ## The functions Deliver calls -/

/-- Vectors U8 and U16. -/
theorem test_unescape_dangling : unescape [0x7D, 0x7D, 0x7D] = ⟨[0x5D], true⟩ := by decide
theorem test_unescape_mixed :
    unescape [0x41, 0x7D, 0x5E, 0x42, 0x7D, 0x5D, 0x43] = ⟨[0x41, 0x7E, 0x42, 0x7D, 0x43], false⟩ := by decide

/-- Rule R116's trace, and the table's `T[0xB5]`. -/
theorem test_crc_pair : crc16 [0x41, 0x42] = 0x567B := by decide +kernel
theorem test_crc_byte : crc16 [0xB5] = 0xF77E := by decide +kernel
/-- The first rounds of the same trace: 4100, 8200, 1421. -/
theorem test_crc_rounds : (crcRounds 1 0x4100, crcRounds 2 0x4100) = (0x8200, 0x1421) := by decide

/-- Vectors D2 and D5. -/
theorem test_trailer_b : decodeTrailer .b ⟨0xC3, 0x4B⟩ = 0x4BC3 := by decide
theorem test_trailer_a : decodeTrailer .a ⟨0xFF, 0x00⟩ = 0x0000 := by decide

/-- Vector T10: `89 EE A1` matches in mode A and not in mode B. -/
theorem test_frame_mode_a : (frameResult .a [0x89, 0xEE, 0xA1]).verdict = .deliveredMatch := by decide +kernel
theorem test_frame_mode_b :
    (frameResult .b [0x89, 0xEE, 0xA1]).diag = some ⟨0x00A1, 0xA1EE, [0x89]⟩ := by decide +kernel
/-- Vector T14: a stuffed trailer byte is unescaped before the split. -/
theorem test_frame_stuffed_trailer :
    frameResult .b [0x70, 0x97, 0x7D, 0x5E] = ⟨none, some [0x70], .deliveredMatch⟩ := by decide +kernel
/-- Vector T3: a lone marker is an undersized frame. -/
theorem test_frame_lone_marker : frameResult .a [0x7D] = ⟨none, none, .undersized⟩ := by decide

/-! ## The step -/

/-- A byte placed where the step fetches is the byte the first step runs. -/
theorem test_step_append :
    (after (step (State.reset.withFetchWord 8 0x80))).map (fun t => (t.abuf, t.agenda, t.pos)) = some ([0x80], [], 1) := by
  decide
theorem test_step_flag :
    (after (step (State.reset.withFetchWord 8 0x7E))).map (fun t => (t.abuf, t.outq, t.pos)) = some ([], [], 1) := by
  decide
/-- In the streaming form the marker sets the flag across steps (program P1, the state at its chunk boundary). -/
theorem test_step_stream_marker :
    (after (step ((streaming .b ⟨[0x01], false⟩ 1).presentByte 0x7D))).map (fun t => (t.pass, t.rawLen, t.pos))
      = some (⟨[0x01], true⟩, 2, 1) := by decide
theorem test_step_popOut :
    (after (step ((fullOut []).withAgenda [.popOut 3]))).map (fun t => (t.outTaken, t.outHeld)) = some ([(3, [0x41])], 0) := by
  decide
theorem test_step_after_teardown :
    stopped (step { State.reset with torn := true, agenda := [.byte 0x41] }) = some .feedAfterTeardown := by decide

/-! ## Witnesses: concrete states and operands that meet the hypotheses of each statement -/

theorem witness_ExactlyOneRowNamesEachSymbol :
    ∃ c : Context, (c = .arrival ∨ c = .passEscaping ∨ c = .passClear) := ⟨.passClear, by decide⟩

theorem witness_DecodeAndEncodeAgree :
    Instr.fits .streamEscaping (.xlit 0x7D) = true ∧ Instr.fits .passClear (.lit 0x7E) = true ∧
    legalRun false [.escm, .xlit 0x7D, .lit 0x5E, .escm] = true := by decide

theorem witness_StepRunsTheDecodedSymbol_reference :
    let s := (holding .a [0x41]).presentByte 0x7D
    s.agenda = .byte 0x7D :: [] ∧ s.torn = false ∧ s.waitsOn 0x7D = false ∧ s.cfg.form = .reference := by decide

theorem witness_StepRunsTheDecodedSymbol_streaming :
    let s := (streaming .a ⟨[0x41], true⟩ 2).presentByte 0x7D
    s.agenda = .byte 0x7D :: [] ∧ s.torn = false ∧ s.waitsOn 0x7D = false ∧ s.cfg.form = .streaming ∧
      atCapacity s.cfg.abufCap s.rawLen = false := by decide

theorem witness_StepRunsTheDecodedSymbol_streaming_sentinel :
    let s := (streaming .a ⟨[0x41], true⟩ 2).presentByte 0x7E
    s.agenda = .byte 0x7E :: [] ∧ s.torn = false ∧ s.waitsOn 0x7E = false ∧ s.cfg.form = .streaming ∧
      (0x7E : Byte) = sentinel := by decide

theorem witness_AppendStoresTheRawByte_room :
    ∀ n, (smallBuffer [0x41]).cfg.abufCap = some n → (smallBuffer [0x41]).abuf.length < n := by
  intro n h
  cases h
  decide

theorem witness_AppendStoresTheRawByte_full :
    (smallBuffer [0x41, 0x42]).cfg.abufCap = some 2 ∧ (smallBuffer [0x41, 0x42]).abuf.length = 2 := by decide

theorem witness_FlagDeliversTheFrame_undersized :
    let s := fullOut [0x7D, 0x5E]
    s.outFull = true ∧ s.frameNow.length < 3 ∧ s.frameNow.length < 2 := by decide

theorem witness_FlagDeliversTheFrame_two_bytes :
    let s := fullOut [0x12, 0x34]
    s.outFull = true ∧ s.frameNow.length < 3 ∧ s.frameNow = [] ++ [0x12, 0x34] := by decide

theorem witness_FlagDeliversTheFrame_payload :
    let s := streaming .b ⟨[0x89, 0xA1, 0x00], false⟩ 3
    s.outFull = false ∧ s.frameNow = [0x89] ++ [0xA1, 0x00] := by decide

/-- The pop stands behind a byte that IN does not accept yet. -/
theorem witness_FullOutDelaysAndNeverDrops :
    let s := (fullOut [0x89, 0xEE, 0xA1]).withAgenda [.byte 0x7E, .byte 0x41, .popOut 0]
    s.torn = false ∧ s.cfg.outqCap = some (0 + 1) ∧ s.outHeld = 0 + 1 ∧ s.frameNow = [0x89] ++ [0xEE, 0xA1] ∧
      ([0x89] : Payload) ≠ [] ∧
      s.agenda = .byte sentinel :: (([0x41] : List Byte).map HostMove.byte ++ .popOut 0 :: []) := by decide

theorem witness_FullOutDelaysAndNeverDrops_pop_at_once :
    let s := (fullOut [0x89, 0xEE, 0xA1]).withAgenda [.byte 0x7E, .popOut 0]
    s.agenda = .byte sentinel :: (([] : List Byte).map HostMove.byte ++ .popOut 0 :: []) ∧ s.outHeld = 0 + 1 := by decide

theorem witness_FullOutDelaysAndNeverDrops_popDiag :
    let s := (fullOut [0x89, 0xEE, 0xA1]).withAgenda [.byte 0x7E, .byte 0x41, .popDiag]
    s.torn = false ∧ s.cfg.outqCap = some (0 + 1) ∧ s.outHeld = 0 + 1 ∧
      s.agenda = .byte sentinel :: (([0x41] : List Byte).map HostMove.byte ++ .popDiag :: []) := by decide

theorem witness_FullOutDelaysAndNeverDrops_no_pop :
    let s := (fullOut [0x89, 0xEE, 0xA1]).withAgenda [.byte 0x7E, .byte 0x41]
    s.torn = false ∧ s.cfg.outqCap = some (0 + 1) ∧ s.outHeld = 0 + 1 ∧ s.frameNow = [0x89] ++ [0xEE, 0xA1] ∧
      ([0x89] : Payload) ≠ [] ∧ s.agenda = .byte sentinel :: ([0x41] : List Byte).map HostMove.byte := by decide

theorem witness_ZeroCapacityNeverEmits :
    let s := { State.resetWith { Config.default with outqCap := some 0 } with
      abuf := [0x89, 0xEE, 0xA1], agenda := [.byte 0x7E, .byte 0x41, .popOut 0, .popDiag] }
    s.torn = false ∧ s.cfg.outqCap = some 0 ∧ s.frameNow = [0x89] ++ [0xEE, 0xA1] ∧ ([0x89] : Payload) ≠ [] ∧
      s.agenda = .byte sentinel :: [.byte 0x41, .popOut 0, .popDiag] ∧
      HostMove.teardown ∉ ([.byte 0x41, .popOut 0, .popDiag] : List HostMove) ∧
      HostMove.reset ∉ ([.byte 0x41, .popOut 0, .popDiag] : List HostMove) := by decide

theorem witness_XlitAppendsWithBitFiveInverted : (5 : Nat) < 8 ∧ (0 : Nat) < 8 ∧ (7 : Nat) < 8 := by decide

theorem witness_LitAppendsUnchanged : (0x7E : Byte) ≠ 0x7D#8 := by decide

theorem witness_DanglingEscapeIsDropped :
    (unescape [0x41, 0x42]).esc = false ∧ (fullOut []).cfg.form = .reference ∧ (fullOut []).outFull = true ∧
      (unescape [0x41, 0x42]).out.length < 3 := by decide

theorem witness_DanglingEscapeIsDropped_streaming :
    let s := streaming .b ⟨[0x89, 0xEE, 0xA1], true⟩ 4
    s.cfg.form = .streaming ∧ s.outFull = false := by decide

theorem witness_CrcRoundBitByBit : (0 : Nat) < 16 ∧ (5 : Nat) < 16 ∧ (12 : Nat) < 16 ∧ (15 : Nat) < 16 := by decide

theorem witness_CrcZeroInitialValueLaws : ([0x41, 0x42] : List Byte).length = ([0x01, 0x02] : List Byte).length := by decide

theorem witness_OutcomeTableRows_undersized : (unescape [0x7D, 0x5E]).out.length < 2 := by decide
theorem witness_OutcomeTableRows_silent :
    (unescape [0x34, 0x00]).out = [] ++ [0x34, 0x00] ∧ decodeTrailer .a ⟨0x34, 0x00⟩ = 0x0000#16 := by decide
theorem witness_OutcomeTableRows_empty_mismatch :
    (unescape [0x34, 0x00]).out = [] ++ [0x34, 0x00] ∧ decodeTrailer .b ⟨0x34, 0x00⟩ ≠ 0x0000#16 := by decide
theorem witness_OutcomeTableRows_match :
    (unescape [0x89, 0xEE, 0xA1]).out = [0x89] ++ [0xEE, 0xA1] ∧ ([0x89] : Payload) ≠ [] ∧
      crc16 [0x89] = decodeTrailer .a ⟨0xEE, 0xA1⟩ := by decide +kernel
theorem witness_OutcomeTableRows_mismatch :
    (unescape [0x89, 0xEE, 0xA1]).out = [0x89] ++ [0xEE, 0xA1] ∧ ([0x89] : Payload) ≠ [] ∧
      crc16 [0x89] ≠ decodeTrailer .b ⟨0xEE, 0xA1⟩ := by decide +kernel

theorem witness_TrailerModeReachesOnlyDiagnostics :
    AgreeOutsideDiag ((holding .a [0x41, 0x42, 0x7B, 0x56]).presentByte 0x7E)
      { (holding .b [0x41, 0x42, 0x7B, 0x56]).presentByte 0x7E with diagq := [⟨0, 1, []⟩] } := by
  constructor <;> rfl

theorem witness_StreamingFormMatchesReference :
    StreamMatches ((holding .b [0x41, 0x7D]).presentByte 0x5E) ((streaming .b ⟨[0x41], true⟩ 2).presentByte 0x5E) := by
  constructor <;> first | rfl | exact ⟨rfl, rfl, rfl⟩

theorem witness_StreamingFormMatchesReference_reset : Config.default.form = .reference := rfl

theorem witness_WholeStreamDecomposition :
    Config.default.Unbounded ∧ (∀ r ∈ ([[0x13, 0x37, 0xAA], []] : List (List Byte)), sentinel ∉ r) ∧
      sentinel ∉ ([0x10, 0x20] : List Byte) := ⟨⟨rfl, rfl⟩, by decide, by decide⟩

theorem witness_FeedIsTheRunOfItsBytes : ∃ t, feed [0x41, 0x7E] State.reset = .next (t, []) := ⟨_, rfl⟩

theorem witness_PresentedBytesAreConsumed :
    let s := State.reset.withAgenda [.byte 0x41, .byte 0x7E, .popDiag]
    s.cfg.Unbounded ∧ s.torn = false ∧ s.agenda = ([0x41, 0x7E] : List Byte).map HostMove.byte ++ [.popDiag] :=
  ⟨⟨rfl, rfl⟩, rfl, rfl⟩

theorem witness_SentinelResynchronises :
    (holding .a [0x41, 0x7D]).cfg.Unbounded ∧ ∃ t, byteStep sentinel (holding .a [0x41, 0x7D]) = .next t :=
  ⟨⟨rfl, rfl⟩, _, rfl⟩

theorem witness_MatchingFrameIsDeliveredExactly :
    let s := State.resetWith { Config.default with trailerMode := .b }
    s.cfg.Unbounded ∧ s.torn = false ∧ s.abuf = [] ∧ s.ubuf = [] ∧ s.esc = false ∧ ([0x70] : Payload) ≠ [] ∧
      s.cfg.trailerMode = .b := ⟨⟨rfl, rfl⟩, rfl, rfl, rfl, rfl, by decide, rfl⟩

theorem witness_MatchingFrameIsDeliveredExactly_mode_a :
    State.reset.cfg.Unbounded ∧ State.reset.torn = false ∧ State.reset.abuf = [] ∧ State.reset.ubuf = [] ∧
      State.reset.esc = false ∧ ([0x00] : Payload) ≠ [] ∧ State.reset.cfg.trailerMode = .a :=
  ⟨⟨rfl, rfl⟩, rfl, rfl, rfl, rfl, by decide, rfl⟩

theorem witness_LiteralRunLosesItsLastTwoBytes :
    State.reset.cfg.Unbounded ∧ State.reset.torn = false ∧ State.reset.abuf = [] ∧ State.reset.ubuf = [] ∧
      State.reset.esc = false ∧ sentinel ∉ ([0x41, 0x42, 0x43] : List Byte) ∧
      escapeMarker ∉ ([0x41, 0x42, 0x43] : List Byte) ∧ 3 ≤ ([0x41, 0x42, 0x43] : List Byte).length :=
  ⟨⟨rfl, rfl⟩, rfl, rfl, rfl, rfl, by decide, by decide, by decide⟩

/-- A state that meets the invariant with a payload taken, one waiting and a run begun. -/
theorem witness_EveryStepKeepsTheInvariant :
    ∃ s t : State, s.Inv ∧ step s = .next t ∧ s.outq ≠ [] ∧ s.abuf ≠ [] := by
  refine ⟨{ (fullOut [0x41, 0x42]) with agenda := [.byte 0x43], outTaken := [(0, [0x41])] }, _, ?_, rfl, by decide, by decide⟩
  constructor
  · decide
  · intro _; exact ⟨rfl, rfl, rfl⟩
  · intro h; cases h
  · decide
  · intro d h; cases h
  · rfl
  · rfl
  · exact ⟨[], rfl⟩
  · exact ⟨[], rfl⟩
  · intro n h; cases h
  · intro n h; cases h; decide

theorem witness_QueuesOnlyGrow :
    ∃ t, step ((holding .a [0x41, 0x42, 0x43]).presentByte 0x7E) = .next t ∧
      ((holding .a [0x41, 0x42, 0x43]).presentByte 0x7E).agenda.head? ≠ some .reset := ⟨_, rfl, by decide⟩

theorem witness_QueuesOnlyGrow_no_sentinel :
    ∃ t, step ((holding .a []).presentByte 0x41) = .next t ∧
      ((holding .a []).presentByte 0x41).agenda.head? ≠ some (.byte sentinel) := ⟨_, rfl, by decide⟩

theorem witness_ByteStepIsTotal :
    (smallBuffer [0x41, 0x42]).torn = false ∧ State.reset.cfg.Unbounded ∧ State.reset.torn = false ∧
      (fullOut [0x89, 0xEE, 0xA1]).torn = false ∧ (fullOut [0x89, 0xEE, 0xA1]).waitsOn sentinel = true :=
  ⟨rfl, ⟨rfl, rfl⟩, rfl, rfl, by decide⟩

theorem witness_PopsTakeTheOldest :
    let s := { (fullOut []) with agenda := [.popOut 2] }
    s.agenda = .popOut 2 :: [] ∧ s.outq[s.outTaken.length]? = some [0x41] := by decide

theorem witness_PopsTakeTheOldest_nothing :
    State.reset.outq[State.reset.outTaken.length]? = none ∧ State.reset.diagq[State.reset.diagTaken.length]? = none ∧
      (State.reset.withAgenda [.popDiag]).agenda = .popDiag :: [] := by decide

theorem witness_PopsTakeTheOldest_record :
    let s := { State.reset with diagq := [⟨0, 1, []⟩], agenda := [.popDiag] }
    s.agenda = .popDiag :: [] ∧ s.diagq[s.diagTaken.length]? = some ⟨0, 1, []⟩ := by decide

theorem witness_TeardownEndsTheExecution :
    ((holding .a [0x41]).withAgenda [.teardown]).agenda = .teardown :: [] ∧
      ∃ u : State, u.torn = true ∧ u.agenda = .byte 0x41 :: [] :=
  ⟨rfl, { State.reset with torn := true, agenda := [.byte 0x41] }, rfl, rfl⟩

theorem witness_TeardownEndsTheExecution_drain :
    let s := { (fullOut []) with torn := true, agenda := [.popOut 2] }
    s.torn = true ∧ ([2] : List Nat).length = s.outHeld ∧ s.agenda = [2].map HostMove.popOut ++ [] := by decide

theorem witness_HostResetBeginsANewExecution :
    ((fullOut [0x41]).withAgenda [.reset, .byte 0x42]).agenda = .reset :: [.byte 0x42] := rfl

theorem witness_IdleBlockKeepsItsState : (holding .a [0x41, 0x7D]).agenda = [] := rfl

theorem witness_NoCloseOrResetInsideAByteStep :
    let s := (fullOut [0x89, 0xEE, 0xA1]).withAgenda [.byte 0x7E, .byte 0x41, .teardown]
    let t := (fullOut [0x89, 0xEE, 0xA1]).withAgenda [.byte 0x7E, .reset]
    s.waitsOn sentinel = true ∧ t.waitsOn sentinel = true ∧
      s.agenda = .byte sentinel :: (([0x41] : List Byte).map HostMove.byte ++ .teardown :: []) ∧
      t.agenda = .byte sentinel :: (([] : List Byte).map HostMove.byte ++ .reset :: []) := by decide

end Sys2Proof.Tests
end

section
/-! Rule R66: what `Stuff` writes, and what a pass makes of it. -/

namespace Sys2Proof

@[simp] theorem stuff_nil : stuff [] = [] := rfl

@[simp] theorem stuff_cons (b : Byte) (bs : List Byte) : stuff (b :: bs) = stuffByte b ++ stuff bs := rfl

theorem stuffByte_sentinel : stuffByte sentinel = [0x7D#8, 0x5E#8] := rfl

theorem stuffByte_escapeMarker : stuffByte escapeMarker = [0x7D#8, 0x5D#8] := rfl

theorem stuffByte_other {b : Byte} (hs : b ≠ sentinel) (he : b ≠ escapeMarker) : stuffByte b = [b] := by
  simp [stuffByte, hs, he]

/-- The three rows of rule R66, in its order. -/
theorem stuffByte_eq (b : Byte) :
    stuffByte b = if b = sentinel then [0x7D#8, 0x5E#8] else if b = escapeMarker then [0x7D#8, 0x5D#8] else [b] := by
  split_ifs with hs he
  · rw [hs, stuffByte_sentinel]
  · rw [he, stuffByte_escapeMarker]
  · exact stuffByte_other hs he

theorem sentinel_notMem_stuffByte (b : Byte) : sentinel ∉ stuffByte b := by
  rw [stuffByte_eq]
  split_ifs with hs he
  · decide
  · decide
  · simpa using Ne.symm hs

theorem sentinel_notMem_stuff (s : List Byte) : sentinel ∉ stuff s := by
  simp [stuff, sentinel_notMem_stuffByte]

end Sys2Proof

namespace Sys2Proof.Machine

/-- From a clear flag, a pass undoes the stuffing of a sequence and leaves the flag clear. -/
theorem Pass.over_stuff (s : List Byte) {p : Pass} (hp : p.esc = false) :
    p.over (stuff s) = { out := p.out ++ s, esc := false } := by
  induction s generalizing p with
  | nil => simp [← hp]
  | cons b bs ih =>
    rw [stuff_cons, Pass.over_append, Pass.over_stuffByte b hp, ih (by simpa using hp)]
    simp

theorem unescape_stuff_esc (s : List Byte) : (unescape (stuff s)).esc = false := by
  rw [unescape, Pass.over_stuff s Pass.start_esc]

/-- Settles O15: byte by byte by the rows of rule R66, none of which writes a sentinel; that the flag ends clear is the
induction in `Pass.over_stuff`. -/
theorem stuffWritesNoSentinel : Obligations.StuffWritesNoSentinel := fun s =>
  ⟨congrArg s.flatMap (funext stuffByte_eq), sentinel_notMem_stuff s, unescape_stuff_esc s⟩

end Sys2Proof.Machine
end

section
/-! Rule R74: what a level 1 `APPEND` does, with room in `ABUF` and without. -/

namespace Sys2Proof.Machine

/-- Settles O5, by the two branches of `APPEND`: room in `ABUF`, and a full `ABUF`. -/
theorem appendStoresTheRawByte : Obligations.AppendStoresTheRawByte := by
  intro s b
  constructor
  · intro hroom
    exact exec_append_room (atCapacity_eq_false.mpr hroom) b
  · intro n hcap hlen
    exact exec_append_full (atCapacity_eq_true.mpr ⟨n, hcap, hlen.ge⟩) b

end Sys2Proof.Machine
end

section
/-! Rules R101 to R104: what the level 2 symbols do one at a time, and that a run of them is the Unescape pass. -/

namespace Sys2Proof.Machine

/-- `ESCAPE_XOR` is bit 5 alone (rule R6), so an escaped operand differs from its byte in bit 5 only. -/
theorem escapedOperand_getLsbD (b : Byte) (i : Nat) :
    (escapedOperand b).getLsbD i = if i = 5 then !b.getLsbD i else b.getLsbD i := by
  have hbit : escapeXor = BitVec.twoPow 8 5 := rfl
  rw [escapedOperand, hbit, BitVec.getLsbD_xor, BitVec.getLsbD_twoPow]
  by_cases hi : i = 5
  · simp [hi]
  · simp [hi, Ne.symm hi]

/-- The symbols of some bytes, decoded from the state's flag and executed one after another, are the pass over those
bytes from the state's output store and flag. -/
theorem runSymbols_decodeRun (bytes : List Byte) (s : State) :
    runSymbols (decodeRun s.esc bytes) s = .next (s.withPass (s.pass.over bytes)) := by
  induction bytes generalizing s with
  | nil => rfl
  | cons b bs ih =>
    have hflag : (decodePass s.esc b).escAfter s.esc = (s.withPass (s.pass.step b)).esc :=
      (Pass.step_esc s.pass b).symm
    simp only [decodeRun, runSymbols, exec_decodePass]
    rw [hflag, ih]
    simp

/-- The three cases of rule R101 with the output and the flag each leaves; `LIT` is met with a clear flag, which it
keeps. -/
theorem Pass.step_fields (p : Pass) (b : Byte) :
    p.step b =
      if p.esc = true then { out := p.out ++ [escapedOperand b], esc := false }
      else if b = escapeMarker then { out := p.out, esc := true }
      else { out := p.out ++ [b], esc := false } := by
  rw [Pass.step_eq]
  split_ifs with hesc hb
  · rfl
  · rfl
  · rw [Pass.lit, Bool.eq_false_of_not_eq_true hesc]

/-- Settles O11: one more byte is one more iteration, in the three cases of `Pass.step_fields`; the run of the symbols
is `runSymbols_decodeRun` at an empty output and a clear flag. -/
theorem unescapeRunsItsSymbols : Obligations.UnescapeRunsItsSymbols := by
  refine ⟨unescape_nil, fun buffer b => ?_, fun buffer s => runSymbols_decodeRun buffer (s.withPass Pass.start)⟩
  have hlast : unescape (buffer ++ [b]) = (unescape buffer).step b := unescape_append buffer [b]
  exact hlast.trans (Pass.step_fields _ b)

/-- Settles O8, by the meaning of `XLIT` and the bits of an escaped operand. -/
theorem xlitAppendsWithBitFiveInverted : Obligations.XlitAppendsWithBitFiveInverted := fun b s =>
  ⟨decodeIn_pass true b, escapedOperand b, exec_xlit b s, rfl, fun i _ => escapedOperand_getLsbD b i⟩

/-- Settles O9, by the meaning of `ESCM`. -/
theorem escmSetsTheFlagOnly : Obligations.EscmSetsTheFlagOnly :=
  ⟨decodeIn_pass false escapeMarker, exec_escm⟩

/-- Settles O10: level 2 compares a byte met while not escaping with the marker alone. -/
theorem litAppendsUnchanged : Obligations.LitAppendsUnchanged := by
  refine fun b s => ⟨fun hb => ?_, exec_lit b s⟩
  calc decodeIn .passClear b
      = decodePass false b := decodeIn_pass false b
    _ = .lit b := if_neg hb

end Sys2Proof.Machine
end

section
/-! Rule R115: the bits of the polynomial, and of the accumulator after one round. -/

namespace Sys2Proof.Machine

theorem crcPoly_getLsbD (i : Nat) : crcPoly.getLsbD i = decide (i = 12 ∨ i = 5 ∨ i = 0) := by
  have hbits : crcPoly = BitVec.twoPow 16 12 ||| (BitVec.twoPow 16 5 ||| BitVec.twoPow 16 0) := rfl
  simp [hbits, BitVec.getLsbD_or, BitVec.getLsbD_twoPow, eq_comm]

/-- The shift of a round discards bit 15 and brings a 0 into bit 0. -/
theorem shiftLeft_one_getLsbD (acc : Word16) {i : Nat} (hi : i < 16) :
    (acc <<< 1).getLsbD i = (decide (1 ≤ i) && acc.getLsbD (i - 1)) := by
  have hpos : (!decide (i < 1)) = decide (1 ≤ i) := by simp only [← decide_not, not_lt]
  rw [BitVec.getLsbD_shiftLeft, hpos, decide_eq_true hi, Bool.true_and]

/-- Settles O17, by the bit 15 that the round tests: the shifted accumulator alone, or with the polynomial's bits
inverted. -/
theorem crcRoundBitByBit : Obligations.CrcRoundBitByBit := by
  intro acc i hi
  rw [crcRound, ← crcPoly_getLsbD, ← shiftLeft_one_getLsbD acc hi]
  cases acc.getLsbD 15 with
  | false => rw [if_neg Bool.false_ne_true, Bool.false_and, Bool.xor_false]
  | true => rw [if_pos rfl, BitVec.getLsbD_xor, Bool.true_and]

end Sys2Proof.Machine
end

section
/-! Rule R127: what mode B makes of the two trailer bytes. -/

namespace Sys2Proof.Machine

theorem decodeTrailer_b (t : Trailer) : decodeTrailer .b t = cat16 t.t1 t.t0 := rfl

/-- Settles O21: mode B puts the later byte above the earlier one, so the value is that of `cat16_toNat`, and the two
bytes of a word16 go back together by `cat16_highByte_lowByte`. -/
theorem modeBTrailerIsLittleEndian : Obligations.ModeBTrailerIsLittleEndian := by
  constructor
  · intro t
    rw [decodeTrailer_b, cat16_toNat]
  · intro w
    rw [decodeTrailer_b, cat16_highByte_lowByte]

end Sys2Proof.Machine
end

section
/-! Decoding (rules R51 to R56): the encoder and the decoder undo each other in every context and over whole raw frames,
and the opcode table's rows are the decoder's. -/

namespace Sys2Proof

/-! ### One symbol -/

theorem decodeArrival_encode {i : Instr} (h : Instr.fits .arrival i = true) : decodeArrival (encode i) = i := by
  cases i with
  | flag => rfl
  | append b =>
    have hb : b ≠ sentinel := by simpa [Instr.fits] using h
    exact decodeArrival_other hb
  | xlit _ | escm | lit _ => cases h

theorem decodePass_encode {esc : Bool} {i : Instr} (h : Instr.fits (.pass esc) i = true) :
    decodePass esc (encode i) = i := by
  cases esc with
  | true =>
    cases i with
    | xlit b => rfl
    | flag | append _ | escm | lit _ => cases h
  | false =>
    cases i with
    | escm => rfl
    | lit b =>
      have hb : b ≠ escapeMarker := by simpa [Instr.fits, Context.pass] using h
      exact if_neg hb
    | flag | append _ | xlit _ => cases h

/-- The merged map's terms are the sentinel, and the level 2 terms whose byte is no sentinel (rule R56). -/
theorem fits_stream_iff (esc : Bool) (i : Instr) :
    Instr.fits (.stream esc) i = true ↔ i = .flag ∨ (Instr.fits (.pass esc) i = true ∧ encode i ≠ sentinel) := by
  cases esc <;> cases i <;> simp [Instr.fits, Context.pass, Context.stream, encode, escapeMarker, sentinel]

theorem decodeStream_encode {esc : Bool} {i : Instr} (h : Instr.fits (.stream esc) i = true) :
    decodeStream esc (encode i) = i := by
  rw [decodeStream_eq]
  obtain rfl | ⟨hpass, hne⟩ := (fits_stream_iff esc i).1 h
  · rfl
  · rw [if_neg hne, decodePass_encode hpass]

theorem decodeArrival_fits (b : Byte) : Instr.fits .arrival (decodeArrival b) = true := by
  by_cases hb : b = sentinel
  · rw [hb]; rfl
  · rw [decodeArrival_other hb]; simpa [Instr.fits] using hb

theorem encode_decodeArrival (b : Byte) : encode (decodeArrival b) = b := by
  by_cases hb : b = sentinel
  · rw [hb]; rfl
  · rw [decodeArrival_other hb]; rfl

theorem decodePass_fits (esc : Bool) (b : Byte) : Instr.fits (.pass esc) (decodePass esc b) = true := by
  obtain ⟨rfl, e⟩ | ⟨rfl, -, e⟩ | ⟨rfl, hb, e⟩ := decodePass_cases esc b
  · rw [e]; rfl
  · rw [e]; rfl
  · rw [e]; simpa [Instr.fits, Context.pass] using hb

theorem encode_decodePass (esc : Bool) (b : Byte) : encode (decodePass esc b) = b := by
  obtain ⟨-, e⟩ | ⟨-, hb, e⟩ | ⟨-, -, e⟩ := decodePass_cases esc b
  · rw [e]; rfl
  · rw [e, hb]; rfl
  · rw [e]; rfl

theorem encode_decodeStream (esc : Bool) (b : Byte) : encode (decodeStream esc b) = b := by
  rw [decodeStream_eq]
  split
  · next hb => rw [hb]; rfl
  · exact encode_decodePass esc b

theorem decodeStream_fits (esc : Bool) (b : Byte) : Instr.fits (.stream esc) (decodeStream esc b) = true := by
  rw [fits_stream_iff, decodeStream_eq]
  split
  · exact .inl rfl
  · next hb => exact .inr ⟨decodePass_fits esc b, by rwa [encode_decodePass]⟩

/-- Every term that fits a context is decoded in it from its encoding. -/
theorem decodeIn_encode (c : Context) {i : Instr} (h : Instr.fits c i = true) : decodeIn c (encode i) = i := by
  cases c with
  | arrival => exact decodeArrival_encode h
  | passEscaping => exact decodePass_encode (esc := true) h
  | passClear => exact decodePass_encode (esc := false) h
  | streamEscaping => exact decodeStream_encode (esc := true) h
  | streamClear => exact decodeStream_encode (esc := false) h

/-- Every byte decodes in every context to a term that fits it. -/
theorem decodeIn_fits (c : Context) (b : Byte) : Instr.fits c (decodeIn c b) = true := by
  cases c with
  | arrival => exact decodeArrival_fits b
  | passEscaping => exact decodePass_fits true b
  | passClear => exact decodePass_fits false b
  | streamEscaping => exact decodeStream_fits true b
  | streamClear => exact decodeStream_fits false b

theorem encode_decodeIn (c : Context) (b : Byte) : encode (decodeIn c b) = b := by
  cases c with
  | arrival => exact encode_decodeArrival b
  | passEscaping => exact encode_decodePass true b
  | passClear => exact encode_decodePass false b
  | streamEscaping => exact encode_decodeStream true b
  | streamClear => exact encode_decodeStream false b

/-! ### Whole raw frames -/

@[simp] theorem legalRun_nil (esc : Bool) : legalRun esc [] = true := rfl

@[simp] theorem legalRun_cons (esc : Bool) (i : Instr) (is : List Instr) :
    legalRun esc (i :: is) = (i.fits (.pass esc) && legalRun (i.escAfter esc) is) := rfl

@[simp] theorem decodeRun_nil (esc : Bool) : decodeRun esc [] = [] := rfl

@[simp] theorem decodeRun_cons (esc : Bool) (b : Byte) (bs : List Byte) :
    decodeRun esc (b :: bs) = decodePass esc b :: decodeRun ((decodePass esc b).escAfter esc) bs := rfl

@[simp] theorem encodeRun_nil : encodeRun [] = [] := rfl

@[simp] theorem encodeRun_cons (i : Instr) (is : List Instr) : encodeRun (i :: is) = encode i :: encodeRun is := rfl

/-- The decoder recovers every legal sequence: the flag it carries is the one the sequence carries. -/
theorem decodeRun_encodeRun (esc : Bool) (is : List Instr) (h : legalRun esc is = true) :
    decodeRun esc (encodeRun is) = is := by
  induction is generalizing esc with
  | nil => rfl
  | cons i is ih =>
    rw [legalRun_cons, Bool.and_eq_true] at h
    obtain ⟨hfits, hrest⟩ := h
    rw [encodeRun_cons, decodeRun_cons, decodePass_encode hfits, ih _ hrest]

theorem decodeRun_legal (esc : Bool) (bytes : List Byte) : legalRun esc (decodeRun esc bytes) = true := by
  induction bytes generalizing esc with
  | nil => rfl
  | cons b bs ih => rw [decodeRun_cons, legalRun_cons, decodePass_fits, ih, Bool.true_and]

theorem encodeRun_decodeRun (esc : Bool) (bytes : List Byte) : encodeRun (decodeRun esc bytes) = bytes := by
  induction bytes generalizing esc with
  | nil => rfl
  | cons b bs ih => rw [decodeRun_cons, encodeRun_cons, encode_decodePass, ih]

/-- Settles O3: one symbol context by context, whole frames by induction with the flag generalised. -/
theorem decodeAndEncodeAgree : Obligations.DecodeAndEncodeAgree :=
  ⟨fun c _ h => decodeIn_encode c h,
    fun c b => ⟨decodeIn_fits c b, encode_decodeIn c b⟩,
    decodeRun_encodeRun,
    fun esc bytes => ⟨decodeRun_legal esc bytes, encodeRun_decodeRun esc bytes⟩⟩

/-! ### The rows of the opcode table -/

/-- The rows are bit patterns, so that they cover each context once is a check of its 256 bytes. -/
theorem rowsHit_arrival : ∀ b, rowsHit .arrival b = [(decodeIn .arrival b).mnemonic] := by decide +kernel

theorem rowsHit_passEscaping : ∀ b, rowsHit .passEscaping b = [(decodeIn .passEscaping b).mnemonic] := by
  decide +kernel

theorem rowsHit_passClear : ∀ b, rowsHit .passClear b = [(decodeIn .passClear b).mnemonic] := by decide +kernel

/-- Settles O1, context by context. -/
theorem exactlyOneRowNamesEachSymbol : Obligations.ExactlyOneRowNamesEachSymbol := by
  rintro c b (rfl | rfl | rfl)
  · exact rowsHit_arrival b
  · exact rowsHit_passEscaping b
  · exact rowsHit_passClear b

/-- Settles O2, by evaluating the decoder on the eight bytes. -/
theorem writtenOutWordsDecode : Obligations.WrittenOutWordsDecode :=
  ⟨rfl, rfl, rfl, rfl, rfl, rfl, rfl, rfl⟩

end Sys2Proof
end

section
/-! Runs of two blocks on the same host moves. A relation that the block's own operations keep is kept by every step
(`Simulation.step`), so each claim about two runs is the list of what its relation keeps. -/

namespace Sys2Proof.Machine

/-- A relation between states on which the step's branches do not differ, kept by each thing a step can do. -/
structure Simulation (R : State → State → Prop) : Prop where
  agenda : ∀ {s t}, R s t → s.agenda = t.agenda
  torn : ∀ {s t}, R s t → s.torn = t.torn
  blocked : ∀ {s t}, R s t → s.blocked = t.blocked
  runFull : ∀ {s t}, R s t → s.runFull = t.runFull
  withAgenda : ∀ {s t}, R s t → ∀ ms, R (s.withAgenda ms) (t.withAgenda ms)
  popOut : ∀ {s t}, R s t → ∀ c, R (s.popOut c) (t.popOut c)
  popDiag : ∀ {s t}, R s t → R s.popDiag t.popDiag
  tearDown : ∀ {s t}, R s t → R s.tearDown t.tearDown
  hostReset : ∀ {s t}, R s t → R s.hostReset t.hostReset
  deliver : ∀ {s t}, R s t → R s.deliver.consumed t.deliver.consumed
  taken : ∀ {s t}, R s t → ∀ b, R (s.taken b) (t.taken b)

namespace Simulation

variable {R : State → State → Prop} {s t : State}

theorem waitsOn (hR : Simulation R) (h : R s t) (b : Byte) : s.waitsOn b = t.waitsOn b := by
  rw [State.waitsOn_eq, State.waitsOn_eq, hR.torn h, hR.blocked h]

theorem byteStep (hR : Simulation R) (h : R s t) {b : Byte} (hw : s.waitsOn b = false) :
    OutcomesMatch R (byteStep b s) (byteStep b t) := by
  obtain ⟨ht, e⟩ | ⟨ht, rfl, hb, e⟩ | ⟨ht, hb, hf, e⟩ | ⟨ht, hb, hf, e⟩ := byteStep_cases s b hw
  · rw [e, byteStep_torn ((hR.torn h).symm.trans ht)]; rfl
  · rw [e, byteStep_sentinel ((hR.torn h).symm.trans ht), exec_flag_clear ((hR.blocked h).symm.trans hb)]
    exact hR.deliver h
  · rw [e, byteStep_full ((hR.torn h).symm.trans ht) hb ((hR.runFull h).symm.trans hf)]; rfl
  · rw [e, byteStep_room ((hR.torn h).symm.trans ht) hb ((hR.runFull h).symm.trans hf)]
    exact hR.taken h b

theorem waitingStep (hR : Simulation R) (h : R s t) : OutcomesMatch R (waitingStep s) (waitingStep t) := by
  unfold Machine.waitingStep
  rw [← hR.agenda h]
  match firstOtherMove s.agenda with
  | none => exact h
  | some (.byte _, _) => exact h
  | some (.popOut c, ms) => exact hR.popOut (hR.withAgenda h ms) c
  | some (.popDiag, ms) => exact hR.popDiag (hR.withAgenda h ms)
  | some (.teardown, _) => rfl
  | some (.reset, _) => rfl

/-- A step keeps the relation: each of the host's moves meets two related blocks in the same branch. -/
theorem step (hR : Simulation R) (h : R s t) : OutcomesMatch R (step s) (step t) := by
  unfold Machine.step hostStep
  rw [← hR.agenda h]
  match s.agenda with
  | [] => exact h
  | .byte b :: ms =>
    simp only [← hR.waitsOn h b]
    cases hw : s.waitsOn b with
    | true => exact hR.waitingStep h
    | false => exact hR.byteStep (hR.withAgenda h ms) (by rwa [State.waitsOn_withAgenda])
  | .popOut c :: ms => exact hR.popOut (hR.withAgenda h ms) c
  | .popDiag :: ms => exact hR.popDiag (hR.withAgenda h ms)
  | .teardown :: ms => exact hR.tearDown (hR.withAgenda h ms)
  | .reset :: ms => exact hR.hostReset (hR.withAgenda h ms)

end Simulation

/-! ### What the two relations read, and the pops as updates -/

/-- A pop of OUT as one update: on an empty OUT it appends nothing. -/
theorem State.popOut_eq (s : State) (c : Nat) :
    s.popOut c = { s with outTaken := s.outTaken ++ (s.outq[s.outTaken.length]?.map (c, ·)).toList } := by
  obtain ⟨h, e⟩ | ⟨p, h, e⟩ := s.popOut_cases c <;> simp [h, e]

/-- A pop of DIAG as one update: on an empty DIAG it appends nothing. -/
theorem State.popDiag_eq (s : State) :
    s.popDiag = { s with diagTaken := s.diagTaken ++ s.diagq[s.diagTaken.length]?.toList } := by
  obtain ⟨h, e⟩ | ⟨d, h, e⟩ := s.popDiag_cases <;> simp [h, e]

theorem State.frameNow_reference {s : State} (h : s.cfg.form = .reference) : s.frameNow = (unescape s.abuf).out :=
  if_pos h

theorem State.frameNow_streaming {s : State} (h : s.cfg.form = .streaming) : s.frameNow = s.ubuf :=
  if_neg (by simp [h])

theorem State.runFull_reference {s : State} (h : s.cfg.form = .reference) :
    s.runFull = atCapacity s.cfg.abufCap s.abuf.length := by
  simp [State.runFull, h]

theorem State.runFull_streaming {s : State} (h : s.cfg.form = .streaming) :
    s.runFull = atCapacity s.cfg.abufCap s.rawLen := by
  simp [State.runFull, h]

/-! ### The trailer mode and the diagnostics -/

/-- The payloads among what Deliver adds to the merged trace are those it emits. -/
theorem filterMap_payload?_delivered (evs : List Event) (ds : List Diag) (ps : List Payload) :
    (evs ++ ds.map Event.record ++ ps.map Event.payload).filterMap Event.payload?
      = evs.filterMap Event.payload? ++ ps := by
  simp [List.filterMap_map, Function.comp_def]

/-- The records among what Deliver adds to the merged trace are those it notifies. -/
theorem filterMap_record?_delivered (evs : List Event) (ds : List Diag) (ps : List Payload) :
    (evs ++ ds.map Event.record ++ ps.map Event.payload).filterMap Event.record?
      = evs.filterMap Event.record? ++ ds := by
  simp [List.filterMap_map, Function.comp_def]

namespace AgreeOutsideDiag

variable {s t : State}

theorem frameNow (h : AgreeOutsideDiag s t) : s.frameNow = t.frameNow := by
  rw [State.frameNow, State.frameNow, h.form, h.abuf, h.ubuf]

theorem outHeld (h : AgreeOutsideDiag s t) : s.outHeld = t.outHeld := by
  rw [State.outHeld, State.outHeld, h.outq, h.outTaken]

theorem blocked (h : AgreeOutsideDiag s t) : s.blocked = t.blocked := by
  rw [State.blocked_eq, State.blocked_eq, State.outFull, State.outFull, h.outqCap, h.outHeld, h.frameNow]

theorem runFull (h : AgreeOutsideDiag s t) : s.runFull = t.runFull := by
  rw [State.runFull, State.runFull, h.form, h.abufCap, h.abuf, h.rawLen]

theorem withAgenda (h : AgreeOutsideDiag s t) (ms : List HostMove) :
    AgreeOutsideDiag (s.withAgenda ms) (t.withAgenda ms) :=
  { h with agenda := rfl }

theorem popOut (h : AgreeOutsideDiag s t) (c : Nat) : AgreeOutsideDiag (s.popOut c) (t.popOut c) := by
  rw [State.popOut_eq, State.popOut_eq]
  exact { h with outTaken := by simp only [h.outq, h.outTaken] }

/-- What the sink has taken is no part of the relation, and a pop of DIAG changes nothing else. -/
theorem popDiag (h : AgreeOutsideDiag s t) : AgreeOutsideDiag s.popDiag t.popDiag := by
  rw [State.popDiag_eq, State.popDiag_eq]
  exact { h with }

theorem tearDown (h : AgreeOutsideDiag s t) : AgreeOutsideDiag s.tearDown t.tearDown :=
  { h with abuf := rfl, esc := rfl, ubuf := rfl, rawLen := rfl, torn := rfl }

theorem hostReset (h : AgreeOutsideDiag s t) : AgreeOutsideDiag s.hostReset t.hostReset :=
  { h with
    abuf := rfl, esc := rfl, ubuf := rfl, outq := rfl, pos := rfl, rawLen := rfl, outTaken := rfl, torn := rfl
    payloads := rfl
    past := by simp [h.past, h.payloads] }

/-- What is emitted does not depend on the trailer mode, and only records differ in what the trace gains. -/
theorem deliver (h : AgreeOutsideDiag s t) : AgreeOutsideDiag s.deliver.consumed t.deliver.consumed := by
  have hout := frameResultOf_out_mode s.cfg.trailerMode t.cfg.trailerMode s.frameNow
  rw [State.deliver_eq, State.deliver_eq]
  exact { h with
    abuf := rfl, esc := rfl, ubuf := rfl, rawLen := rfl
    outq := by rw [State.consumed_outq, State.consumed_outq, h.outq, hout, h.frameNow]
    pos := by rw [State.consumed_pos, State.consumed_pos, h.pos]
    payloads := by
      rw [State.consumed_events, State.consumed_events, filterMap_payload?_delivered, filterMap_payload?_delivered,
        h.payloads, hout, h.frameNow] }

theorem taken (h : AgreeOutsideDiag s t) (b : Byte) : AgreeOutsideDiag (s.taken b) (t.taken b) := by
  have hpass : s.pass = t.pass := by rw [State.pass, State.pass, h.ubuf, h.esc]
  cases hf : s.cfg.form with
  | reference =>
    rw [State.taken_reference hf, State.taken_reference (h.form.symm.trans hf)]
    exact { h with abuf := congrArg (· ++ [b]) h.abuf, pos := congrArg (· + 1) h.pos }
  | streaming =>
    rw [State.taken_streaming hf, State.taken_streaming (h.form.symm.trans hf), hpass]
    exact { h with esc := rfl, ubuf := rfl, pos := congrArg (· + 1) h.pos, rawLen := congrArg (· + 1) h.rawLen }

theorem simulation : Simulation AgreeOutsideDiag where
  agenda h := h.agenda
  torn h := h.torn
  blocked h := h.blocked
  runFull h := h.runFull
  withAgenda h := h.withAgenda
  popOut h := h.popOut
  popDiag h := h.popDiag
  tearDown h := h.tearDown
  hostReset h := h.hostReset
  deliver h := h.deliver
  taken h := h.taken

end AgreeOutsideDiag

/-- Settles O24: agreement outside the diagnostics is kept by everything a step can do. -/
theorem trailerModeReachesOnlyDiagnostics : Obligations.TrailerModeReachesOnlyDiagnostics :=
  fun _ _ => AgreeOutsideDiag.simulation.step

/-! ### The streaming form and the reference form -/

namespace StreamMatches

variable {s t : State}

theorem form_streaming (h : StreamMatches s t) : t.cfg.form = .streaming := by rw [h.cfg]

theorem trailerMode (h : StreamMatches s t) : t.cfg.trailerMode = s.cfg.trailerMode := by rw [h.cfg]

theorem frameNow (h : StreamMatches s t) : s.frameNow = t.frameNow := by
  rw [State.frameNow_reference h.form, State.frameNow_streaming h.form_streaming, ← h.pass, State.pass_out]

theorem blocked (h : StreamMatches s t) : s.blocked = t.blocked := by
  rw [State.blocked_eq, State.blocked_eq, State.outFull, State.outFull, State.outHeld, State.outHeld, h.cfg, h.outq,
    h.outTaken, h.frameNow]

theorem runFull (h : StreamMatches s t) : s.runFull = t.runFull := by
  rw [State.runFull_reference h.form, State.runFull_streaming h.form_streaming, h.raw, h.cfg]

theorem withAgenda (h : StreamMatches s t) (ms : List HostMove) : StreamMatches (s.withAgenda ms) (t.withAgenda ms) :=
  { h with agenda := rfl }

theorem popOut (h : StreamMatches s t) (c : Nat) : StreamMatches (s.popOut c) (t.popOut c) := by
  rw [State.popOut_eq, State.popOut_eq]
  exact { h with outTaken := by simp only [h.outq, h.outTaken] }

theorem popDiag (h : StreamMatches s t) : StreamMatches s.popDiag t.popDiag := by
  rw [State.popDiag_eq, State.popDiag_eq]
  exact { h with diagTaken := by simp only [h.diagq, h.diagTaken] }

theorem tearDown (h : StreamMatches s t) : StreamMatches s.tearDown t.tearDown :=
  { h with pass := rfl, raw := rfl, idle := ⟨rfl, rfl, rfl⟩, noRaw := rfl, torn := rfl }

theorem hostReset (h : StreamMatches s t) : StreamMatches s.hostReset t.hostReset :=
  { h with
    pass := rfl, raw := rfl, idle := ⟨rfl, rfl, rfl⟩, noRaw := rfl, outq := rfl, diagq := rfl, pos := rfl
    events := rfl, outTaken := rfl, diagTaken := rfl, torn := rfl
    past := by rw [State.hostReset_past, State.hostReset_past, h.past, h.events] }

/-- The two organisations close the same frame under the same trailer mode. -/
theorem deliver (h : StreamMatches s t) : StreamMatches s.deliver.consumed t.deliver.consumed := by
  rw [State.deliver_eq, State.deliver_eq, h.trailerMode, ← h.frameNow]
  exact { h with
    pass := rfl, raw := rfl, idle := ⟨rfl, rfl, rfl⟩, noRaw := rfl
    outq := by simp only [State.consumed_outq, h.outq]
    diagq := by simp only [State.consumed_diagq, h.diagq]
    pos := by simp only [State.consumed_pos, h.pos]
    events := by simp only [State.consumed_events, h.events] }

/-- The reference form stores the byte that the streaming form's pass takes. -/
theorem taken (h : StreamMatches s t) (b : Byte) : StreamMatches (s.taken b) (t.taken b) := by
  rw [State.taken_reference h.form, State.taken_streaming h.form_streaming]
  exact { h with
    pass := by
      show t.pass.step b = unescape (s.abuf ++ [b])
      rw [unescape_append, ← h.pass]; rfl
    raw := by
      show t.rawLen + 1 = (s.abuf ++ [b]).length
      rw [h.raw, List.length_append]; rfl
    pos := congrArg (· + 1) h.pos }

theorem simulation : Simulation StreamMatches where
  agenda h := h.agenda
  torn h := h.torn
  blocked h := h.blocked
  runFull h := h.runFull
  withAgenda h := h.withAgenda
  popOut h := h.popOut
  popDiag h := h.popDiag
  tearDown h := h.tearDown
  hostReset h := h.hostReset
  deliver h := h.deliver
  taken h := h.taken

theorem resetWith {c : Config} (hc : c.form = .reference) (ms : List HostMove) :
    StreamMatches ((State.resetWith c).withAgenda ms)
      ((State.resetWith { c with form := .streaming }).withAgenda ms) := by
  constructor
  case form => exact hc
  case idle => exact ⟨rfl, rfl, rfl⟩
  all_goals rfl

end StreamMatches

/-- Settles O25: the matching is kept by everything a step can do, and holds of two blocks after reset. -/
theorem streamingFormMatchesReference : Obligations.StreamingFormMatchesReference :=
  ⟨fun _ _ => StreamMatches.simulation.step, fun _ ms hc => StreamMatches.resetWith hc ms⟩

end Sys2Proof.Machine
end

section
/-! The invariant of the block and its ports, kept by each thing a step can do; and what one step may push. -/

namespace Sys2Proof.Machine

/-! ### A step that answers a next state -/

/-- The next states of a byte step that need not wait. -/
theorem byteStep_next {s t : State} {b : Byte} (hw : s.waitsOn b = false) (h : byteStep b s = .next t) :
    (b = sentinel ∧ s.blocked = false ∧ t = s.deliver.consumed) ∨
    (b ≠ sentinel ∧ s.runFull = false ∧ t = s.taken b) := by
  obtain ⟨-, e⟩ | ⟨-, hb, hbl, e⟩ | ⟨-, -, -, e⟩ | ⟨-, hb, hf, e⟩ := byteStep_cases s b hw
  · rw [e] at h; cases h
  · rw [e] at h; cases h; exact .inl ⟨hb, hbl, rfl⟩
  · rw [e] at h; cases h
  · rw [e] at h; cases h; exact .inr ⟨hb, hf, rfl⟩

/-- The next states of a step, one for each thing that can happen. -/
theorem step_next {s t : State} (h : step s = .next t) :
    t = s ∨
    (∃ ms, s.agenda = .byte sentinel :: ms ∧ s.blocked = false ∧ t = (s.withAgenda ms).deliver.consumed) ∨
    (∃ b ms, b ≠ sentinel ∧ s.runFull = false ∧ t = (s.withAgenda ms).taken b) ∨
    (∃ c ms, t = (s.withAgenda ms).popOut c) ∨
    (∃ ms, t = (s.withAgenda ms).popDiag) ∨
    (∃ ms, t = (s.withAgenda ms).tearDown) ∨
    (∃ ms, s.agenda = .reset :: ms ∧ t = (s.withAgenda ms).hostReset) := by
  obtain ⟨-, e⟩ | ⟨b, ms, ha, hw, e⟩ | ⟨c, ms, e⟩ | ⟨ms, e⟩ | ⟨ms, -, e⟩ | ⟨ms, ha, e⟩ | ⟨b, ms, -, -, e⟩ :=
    step_cases s
  · rw [e] at h; cases h; exact .inl rfl
  · rw [e] at h
    obtain ⟨rfl, hbl, rfl⟩ | ⟨hb, hf, rfl⟩ := byteStep_next (by rwa [State.waitsOn_withAgenda]) h
    · exact .inr (.inl ⟨ms, ha, by rwa [State.blocked_withAgenda] at hbl, rfl⟩)
    · exact .inr (.inr (.inl ⟨b, ms, hb, hf, rfl⟩))
  · rw [e] at h; cases h; exact .inr (.inr (.inr (.inl ⟨c, ms, rfl⟩)))
  · rw [e] at h; cases h; exact .inr (.inr (.inr (.inr (.inl ⟨ms, rfl⟩))))
  · rw [e] at h; cases h; exact .inr (.inr (.inr (.inr (.inr (.inl ⟨ms, rfl⟩)))))
  · rw [e] at h; cases h; exact .inr (.inr (.inr (.inr (.inr (.inr ⟨ms, ha, rfl⟩)))))
  · obtain e | e | e := e
    · rw [e] at h; cases h; exact .inl rfl
    · rw [e] at h; cases h
    · rw [e] at h; cases h

/-! ### What a delivered frame needs of OUT -/

theorem State.outFull_eq_false_iff {s : State} :
    s.outFull = false ↔ ∀ n, s.cfg.outqCap = some n → s.outHeld < n :=
  atCapacity_eq_false

/-- A sentinel need not wait when OUT has room or its frame has no payload (rule R47). -/
theorem State.blocked_eq_false_iff {s : State} :
    s.blocked = false ↔ (s.outFull = true → s.frameNow.length < 3) := by
  rw [State.blocked_eq]
  cases s.outFull <;> simp

/-- A frame of fewer than three bytes emits nothing (rule R94). -/
theorem frameResultOf_out_eq_none (m : TrailerMode) {frame : List Byte} (h : frame.length < 3) :
    (frameResultOf m frame).out = none := by
  rw [← Option.not_isSome_iff_eq_none, frameResultOf_out_isSome]
  simpa using h

/-- What a sentinel that need not wait adds to OUT still fits. -/
theorem State.outHeld_deliver_le {s : State} {n : Nat} (hb : s.blocked = false) (hcap : s.cfg.outqCap = some n)
    (hn : s.outHeld ≤ n) : s.deliver.consumed.outHeld ≤ n := by
  rw [State.deliver_eq]
  simp only [State.outHeld, State.consumed_outq, State.consumed_outTaken, List.length_append,
    Option.length_toList] at hn ⊢
  cases hfull : s.outFull with
  | true =>
    rw [frameResultOf_out_eq_none _ (State.blocked_eq_false_iff.1 hb hfull)]
    exact hn
  | false =>
    have hroom := State.outFull_eq_false_iff.1 hfull n hcap
    rw [State.outHeld] at hroom
    split <;> omega

/-! ### The invariant -/

/-- Settles O34: at reset every store is empty. -/
theorem invariantHoldsAfterReset : Obligations.InvariantHoldsAfterReset := by
  intro c
  constructor
  case reference_idle => exact fun _ => ⟨rfl, rfl, rfl⟩
  case streaming_short => exact fun _ => ⟨rfl, Nat.le_refl 0⟩
  case payloads_traced => rfl
  case records_traced => rfl
  all_goals simp [State.outHeld]

/-- Taking the next item in order keeps what was taken the oldest part of what was pushed. -/
theorem taken_append_next {α : Type} {taken pushed : List α} (h : taken <+: pushed) :
    taken ++ pushed[taken.length]?.toList <+: pushed := by
  obtain ⟨rest, rfl⟩ := h
  cases rest with
  | nil => simp
  | cons x xs => simp

/-- Every iteration of the pass appends a byte, but for a marker met while not escaping, which sets the flag
(rule R111). -/
theorem Pass.step_length (p : Pass) (b : Byte) :
    (p.step b).out.length + (p.step b).esc.toNat = p.out.length + 1 := by
  rw [Pass.step_fields]
  split_ifs <;> simp

namespace State.Inv

variable {s : State}

theorem withAgenda (h : s.Inv) (ms : List HostMove) : (s.withAgenda ms).Inv :=
  { h with }

theorem popOut (h : s.Inv) (c : Nat) : (s.popOut c).Inv := by
  have hnext := taken_append_next h.out_fifo
  rw [List.length_map] at hnext
  rw [State.popOut_eq]
  exact { h with
    out_fifo := by
      simpa [Option.toList_map, Function.comp_def] using hnext
    out_bounded := fun n hn => by
      have hle := h.out_bounded n hn
      simp only [State.outHeld, List.length_append] at hle ⊢
      omega }

theorem popDiag (h : s.Inv) : s.popDiag.Inv := by
  rw [State.popDiag_eq]
  exact { h with diag_fifo := taken_append_next h.diag_fifo }

theorem tearDown (h : s.Inv) : s.tearDown.Inv :=
  { h with
    no_sentinel := List.not_mem_nil
    reference_idle := fun _ => ⟨rfl, rfl, rfl⟩
    streaming_short := fun _ => ⟨rfl, Nat.le_refl 0⟩
    run_bounded := fun n _ => ⟨Nat.zero_le n, Nat.zero_le n⟩ }

/-- The invariant does not read the agenda or the ended executions, so a reset is the reset state to it. -/
theorem hostReset (s : State) : s.hostReset.Inv :=
  { invariantHoldsAfterReset s.cfg with }

/-- Delivery appends a non-empty payload and a true record at most, to the queues and the trace alike. -/
theorem deliver (h : s.Inv) (hb : s.blocked = false) : s.deliver.consumed.Inv := by
  have hroom := fun n hcap => State.outHeld_deliver_le hb hcap (h.out_bounded n hcap)
  rw [State.deliver_eq] at hroom ⊢
  exact { h with
    no_sentinel := List.not_mem_nil
    reference_idle := fun _ => ⟨rfl, rfl, rfl⟩
    streaming_short := fun _ => ⟨rfl, Nat.le_refl 0⟩
    payload_nonempty := by
      intro p hp
      rw [State.consumed_outq, List.mem_append, Option.mem_toList] at hp
      exact hp.elim (h.payload_nonempty p) frameResultOf_out_ne_nil
    records_sound := by
      intro d hd
      rw [State.consumed_diagq, List.mem_append, Option.mem_toList] at hd
      exact hd.elim (h.records_sound d) frameResultOf_diag_sound
    payloads_traced := by
      rw [State.consumed_events, State.consumed_outq, filterMap_payload?_delivered, ← h.payloads_traced]
    records_traced := by
      rw [State.consumed_events, State.consumed_diagq, filterMap_record?_delivered, ← h.records_traced]
    out_fifo := h.out_fifo.trans ⟨_, rfl⟩
    diag_fifo := h.diag_fifo.trans ⟨_, rfl⟩
    run_bounded := fun n _ => ⟨Nat.zero_le n, Nat.zero_le n⟩
    out_bounded := hroom }

theorem taken_reference (h : s.Inv) (hform : s.cfg.form = .reference) {b : Byte} (hb : b ≠ sentinel)
    (hroom : s.runFull = false) : (s.taken b).Inv := by
  rw [State.runFull_reference hform, atCapacity_eq_false] at hroom
  rw [State.taken_reference hform]
  exact { h with
    no_sentinel := by simpa using ⟨h.no_sentinel, hb.symm⟩
    streaming_short := fun hs => absurd (hform.symm.trans hs) (by decide)
    run_bounded := fun n hn => ⟨by simpa using hroom n hn, (h.run_bounded n hn).2⟩ }

theorem taken_streaming (h : s.Inv) (hform : s.cfg.form = .streaming) (b : Byte)
    (hroom : s.runFull = false) : (s.taken b).Inv := by
  rw [State.runFull_streaming hform, atCapacity_eq_false] at hroom
  obtain ⟨hraw, hshort⟩ := h.streaming_short hform
  have hstep : (s.pass.step b).out.length + (s.pass.step b).esc.toNat ≤ s.ubuf.length + s.esc.toNat + 1 := by
    rw [Pass.step_length, State.pass_out]
    omega
  rw [State.taken_streaming hform]
  exact { h with
    reference_idle := fun hr => absurd (hform.symm.trans hr) (by decide)
    streaming_short := fun _ => ⟨hraw, hstep.trans (Nat.succ_le_succ hshort)⟩
    run_bounded := fun n hn => ⟨(h.run_bounded n hn).1, hroom n hn⟩ }

theorem taken (h : s.Inv) {b : Byte} (hb : b ≠ sentinel) (hroom : s.runFull = false) : (s.taken b).Inv := by
  cases hform : s.cfg.form with
  | reference => exact h.taken_reference hform hb hroom
  | streaming => exact h.taken_streaming hform b hroom

end State.Inv

/-- Settles O35, by what a step that answers a next state can do. -/
theorem everyStepKeepsTheInvariant : Obligations.EveryStepKeepsTheInvariant := by
  intro s t h hst
  obtain rfl | ⟨ms, -, hb, rfl⟩ | ⟨b, ms, hb, hf, rfl⟩ | ⟨c, ms, rfl⟩ | ⟨ms, rfl⟩ | ⟨ms, rfl⟩ | ⟨ms, -, rfl⟩ :=
    step_next hst
  · exact h
  · exact (h.withAgenda ms).deliver (by rwa [State.blocked_withAgenda])
  · exact (h.withAgenda ms).taken hb hf
  · exact (h.withAgenda ms).popOut c
  · exact (h.withAgenda ms).popDiag
  · exact (h.withAgenda ms).tearDown
  · exact State.Inv.hostReset (s.withAgenda ms)

/-! ### What a step may push -/

/-- Settles O36: only a sentinel's delivery pushes, and it pushes what one `FrameResult` holds. -/
theorem queuesOnlyGrow : Obligations.QueuesOnlyGrow := by
  intro s t hst hreset
  have keeps : t.outq = s.outq → t.diagq = s.diagq →
      ∃ ps ds, t.outq = s.outq ++ ps ∧ t.diagq = s.diagq ++ ds ∧ ps.length ≤ 1 ∧ ds.length ≤ 1 ∧
        (s.agenda.head? ≠ some (.byte sentinel) → ps = [] ∧ ds = []) :=
    fun ho hd => ⟨[], [], by simp [ho], by simp [hd], Nat.zero_le 1, Nat.zero_le 1, fun _ => ⟨rfl, rfl⟩⟩
  obtain rfl | ⟨ms, ha, -, rfl⟩ | ⟨b, ms, -, -, rfl⟩ | ⟨c, ms, rfl⟩ | ⟨ms, rfl⟩ | ⟨ms, rfl⟩ | ⟨ms, ha, -⟩ :=
    step_next hst
  · exact keeps rfl rfl
  · rw [State.deliver_eq]
    exact ⟨_, _, rfl, rfl, Option.length_toList_le, Option.length_toList_le, fun hne => absurd (by rw [ha]; rfl) hne⟩
  · exact keeps (State.taken_outq _ b) (State.taken_diagq _ b)
  · exact keeps (State.popOut_outq _ c) (State.popOut_diagq _ c)
  · exact keeps (State.popDiag_outq _) (State.popDiag_diagq _)
  · exact keeps rfl rfl
  · exact absurd (by rw [ha]; rfl) hreset

/-! ### The byte step is total -/

theorem State.runFull_eq_true_iff {s : State} :
    s.runFull = true ↔
      ∃ n, s.cfg.abufCap = some n ∧ n ≤ (if s.cfg.form = .reference then s.abuf.length else s.rawLen) := by
  cases hform : s.cfg.form with
  | reference => rw [State.runFull_reference hform, atCapacity_eq_true]; rfl
  | streaming => rw [State.runFull_streaming hform, atCapacity_eq_true]; rfl

theorem State.outFull_of_unbounded {s : State} (h : s.cfg.Unbounded) : s.outFull = false :=
  State.outFull_eq_false_iff.2 fun n hn => by cases h.2.symm.trans hn

theorem State.runFull_of_unbounded {s : State} (h : s.cfg.Unbounded) : s.runFull = false := by
  rw [← Bool.not_eq_true, State.runFull_eq_true_iff]
  rintro ⟨n, hn, -⟩
  cases h.1.symm.trans hn

theorem State.blocked_of_unbounded {s : State} (h : s.cfg.Unbounded) : s.blocked = false := by
  rw [State.blocked_eq, State.outFull_of_unbounded h, Bool.false_and]

theorem State.waitsOn_of_unbounded {s : State} (h : s.cfg.Unbounded) (b : Byte) : s.waitsOn b = false := by
  rw [State.waitsOn_eq, State.blocked_of_unbounded h, Bool.and_false]

/-- A block that is not torn down takes the byte, or leaves a sentinel waiting, or refuses a byte too many. -/
theorem byteStep_total {s : State} (ht : s.torn = false) (b : Byte) :
    (∃ t, byteStep b s = .next t) ∨ (byteStep b s = .refused .abufOverflow ∧ b ≠ sentinel ∧ s.runFull = true) := by
  cases hw : s.waitsOn b with
  | true =>
    obtain ⟨-, rfl, hbl⟩ := State.waitsOn_iff.1 hw
    exact .inl ⟨s, by rw [byteStep_sentinel ht, exec_flag_blocked hbl]⟩
  | false =>
    obtain ⟨ht', -⟩ | ⟨-, -, -, e⟩ | ⟨-, hb, hf, e⟩ | ⟨-, -, -, e⟩ := byteStep_cases s b hw
    · cases ht.symm.trans ht'
    · exact .inl ⟨_, e⟩
    · exact .inr ⟨e, hb, hf⟩
    · exact .inl ⟨_, e⟩

/-- Settles O37: the fault type is empty, and each stop names the finite capacity it comes from. -/
theorem byteStepIsTotal : Obligations.ByteStepIsTotal := by
  intro s b ht
  refine ⟨fun r => (nomatch r), ?_, fun hw => ?_, fun hu => ⟨State.waitsOn_of_unbounded hu b, ?_⟩⟩
  · exact (byteStep_total ht b).imp_right fun ⟨e, hb, hf⟩ => ⟨e, hb, State.runFull_eq_true_iff.1 hf⟩
  · obtain ⟨-, hb, hbl⟩ := State.waitsOn_iff.1 hw
    rw [State.blocked_eq, Bool.and_eq_true] at hbl
    exact ⟨hb, atCapacity_eq_true.1 hbl.1⟩
  · refine (byteStep_total ht b).resolve_right ?_
    rintro ⟨-, -, hf⟩
    cases (State.runFull_of_unbounded hu).symm.trans hf

end Sys2Proof.Machine
end

section
/-! `FLAG` (rules R47, R73, R87 to R97): what a delivered frame gives, and what a full OUT makes of it. -/

namespace Sys2Proof.Machine

/-! ### The outcome table -/

/-- What a frame put together from a payload and two trailer bytes gives. -/
theorem frameResultOf_append (m : TrailerMode) (p : Payload) (t0 t1 : Byte) :
    frameResultOf m (p ++ [t0, t1]) =
      { diag := if crc16 p = decodeTrailer m ⟨t0, t1⟩ then none else some (frameDiag m p ⟨t0, t1⟩)
        out := if p = [] then none else some p
        verdict :=
          if p = [] then .emptyPayload
          else if crc16 p = decodeTrailer m ⟨t0, t1⟩ then .deliveredMatch else .deliveredMismatch } := by
  unfold frameResultOf
  rw [splitFrame_append]
  simp [Diag.isMismatch, mismatch, frameDiag, ite_not]

@[simp] theorem crc16_nil : crc16 [] = 0x0000#16 := rfl

theorem frameResult_append {buf : List Byte} {p : Payload} {t0 t1 : Byte} (h : (unescape buf).out = p ++ [t0, t1])
    (m : TrailerMode) : frameResult m buf = frameResultOf m (p ++ [t0, t1]) := by
  rw [frameResult, h]

/-- Settles O23: the rows are the branches of `frameResultOf_append`, and a shorter frame is undersized. -/
theorem outcomeTableRows : Obligations.OutcomeTableRows := by
  refine fun m buf => ⟨fun h => frameResultOf_short m h, fun payload t0 t1 h => ?_⟩
  rw [frameResult_append h, frameResultOf_append]
  refine ⟨?_, ?_, fun hp hc => ?_, fun hp hc => ?_⟩
  · rintro rfl hr
    rw [crc16_nil, hr]; rfl
  · rintro rfl hr
    rw [crc16_nil, if_neg hr.symm]; rfl
  · rw [if_pos hc, if_neg hp, if_neg hp, if_pos hc]
  · rw [if_neg hc, if_neg hp, if_neg hp, if_neg hc]; rfl

/-! ### FLAG with room in OUT -/

/-- A sentinel completes when OUT has room or its frame has no payload. -/
theorem exec_flag_room {s : State} (h : s.outFull = true → s.frameNow.length < 3) :
    exec .flag s = .next s.deliver.consumed :=
  exec_flag_clear (State.blocked_eq_false_iff.2 h)

/-- Settles O6: the state after delivery by `State.deliver_eq`, the frame's result by its two cases. -/
theorem flagDeliversTheFrame : Obligations.FlagDeliversTheFrame := by
  intro s h
  refine ⟨_, exec_flag_room h, ?_⟩
  rw [State.deliver_eq]
  refine ⟨rfl, rfl, rfl, rfl, rfl, ⟨rfl, rfl, rfl, rfl, rfl, rfl⟩, fun hshort => ?_, fun payload t0 t1 hframe => ?_⟩
  · simp [frameResultOf_short _ hshort]
  · have hrec : (frameResultOf s.cfg.trailerMode (payload ++ [t0, t1])).diag.toList =
        if crc16 payload ≠ decodeTrailer s.cfg.trailerMode ⟨t0, t1⟩
        then [frameDiag s.cfg.trailerMode payload ⟨t0, t1⟩] else [] := by
      rw [frameResultOf_append]
      split_ifs <;> simp_all
    have hout : (frameResultOf s.cfg.trailerMode (payload ++ [t0, t1])).out.toList =
        if payload.length > 0 then [payload] else [] := by
      rw [frameResultOf_append]
      cases payload <;> simp
    rw [hframe, hrec, hout]
    exact ⟨rfl, rfl, rfl⟩

/-! ### FLAG with OUT full -/

theorem State.blocked_of_payload {s : State} {p : Payload} {t0 t1 : Byte} (hfull : s.outFull = true)
    (hframe : s.frameNow = p ++ [t0, t1]) (hp : p ≠ []) : s.blocked = true := by
  have hpos := List.length_pos_iff.2 hp
  rw [State.blocked_eq, hfull, hframe, Bool.true_and, decide_eq_true_iff, List.length_append]
  exact Nat.add_le_add_right hpos 2

/-- While a sentinel waits, the first of the host's other moves is the step, whatever bytes stand before it. -/
theorem firstOtherMove_agenda {s : State} {bytes : List Byte} {ms ms' : List HostMove} {m : HostMove}
    (ha : s.agenda = bytes.map .byte ++ ms) (hm : firstOtherMove ms = some (m, ms')) :
    firstOtherMove s.agenda = some (m, bytes.map .byte ++ ms') := by
  rw [ha, firstOtherMove_bytes_append, hm]; rfl

section Waiting

variable {s : State} {bytes : List Byte} {ms : List HostMove} {b : Byte} (hw : s.waitsOn b = true)
include hw

theorem step_waits_bytes (ha : s.agenda = .byte b :: bytes.map .byte) : step s = .next s := by
  have hnone : firstOtherMove s.agenda = none := by rw [ha]; exact firstOtherMove_bytes (b :: bytes)
  rw [step_waits ha hw, waitingStep, hnone]

theorem step_waits_popOut {c : Nat} (ha : s.agenda = .byte b :: (bytes.map .byte ++ .popOut c :: ms)) :
    step s = .next ((s.withAgenda (.byte b :: (bytes.map .byte ++ ms))).popOut c) := by
  rw [step_waits ha hw, waitingStep, firstOtherMove_agenda (bytes := b :: bytes) ha rfl]; rfl

theorem step_waits_popDiag (ha : s.agenda = .byte b :: (bytes.map .byte ++ .popDiag :: ms)) :
    step s = .next (s.withAgenda (.byte b :: (bytes.map .byte ++ ms))).popDiag := by
  rw [step_waits ha hw, waitingStep, firstOtherMove_agenda (bytes := b :: bytes) ha rfl]; rfl

theorem step_waits_teardown (ha : s.agenda = .byte b :: (bytes.map .byte ++ .teardown :: ms)) :
    step s = .refused .closeDuringFeed := by
  rw [step_waits ha hw, waitingStep, firstOtherMove_agenda (bytes := b :: bytes) ha rfl]

theorem step_waits_reset (ha : s.agenda = .byte b :: (bytes.map .byte ++ .reset :: ms)) :
    step s = .refused .resetInsideByteStep := by
  rw [step_waits ha hw, waitingStep, firstOtherMove_agenda (bytes := b :: bytes) ha rfl]

end Waiting

/-- Settles O42, by the two moves that may not come inside a byte step. -/
theorem noCloseOrResetInsideAByteStep : Obligations.NoCloseOrResetInsideAByteStep :=
  fun _ _ _ hw => ⟨step_waits_teardown hw, step_waits_reset hw⟩

/-- A sentinel next on IN that need not wait is delivered. -/
theorem step_sentinel {s : State} {ms : List HostMove} (ha : s.agenda = .byte sentinel :: ms) (ht : s.torn = false)
    (hb : s.blocked = false) : step s = .next (s.withAgenda ms).deliver.consumed := by
  have hw : s.waitsOn sentinel = false := by rw [State.waitsOn_eq, hb, Bool.and_false]
  rw [step_byte ha hw, byteStep_sentinel (s := s.withAgenda ms) ht, exec_flag_clear (by rwa [State.blocked_withAgenda])]

/-- Settles O7: OUT full makes the sentinel wait, so that only the pops act; a pop of OUT leaves room for the
payload. -/
theorem fullOutDelaysAndNeverDrops : Obligations.FullOutDelaysAndNeverDrops := by
  intro s n c bytes ms payload t0 t1 ht hcap hheld hframe hp
  have hfull : s.outFull = true := atCapacity_eq_true.2 ⟨n + 1, hcap, hheld.ge⟩
  have hb := State.blocked_of_payload hfull hframe hp
  have hw : s.waitsOn sentinel = true := State.waitsOn_iff.2 ⟨ht, rfl, hb⟩
  refine ⟨exec_flag_blocked hb, step_waits_bytes hw, fun ha => ?_, fun ha => ?_⟩
  · rw [step_waits_popDiag hw ha, State.popDiag_eq]; rfl
  · have hlt : s.outTaken.length < s.outq.length := by
      rw [State.outHeld] at hheld
      omega
    have hsome := List.getElem?_eq_getElem hlt
    have hpop := step_waits_popOut hw ha
    rw [State.popOut_eq, State.withAgenda_outq, State.withAgenda_outTaken, hsome] at hpop
    refine ⟨_, _, _, hsome, hpop, rfl, step_sentinel rfl ht ?_, ?_⟩
    · refine State.blocked_eq_false_iff.2 fun hfull' => ?_
      obtain ⟨m, hm, hle⟩ := atCapacity_eq_true.1 hfull'
      cases hcap.symm.trans hm
      simp [State.outHeld] at hheld hle
      omega
    · rw [State.deliver_eq]
      refine ⟨rfl, ?_, rfl, rfl⟩
      show s.outq ++ (frameResultOf s.cfg.trailerMode s.frameNow).out.toList = _
      rw [hframe, frameResultOf_append, if_neg hp]; rfl

/-! ### A capacity of 0 -/

/-- What every step of the machine keeps, every number of steps keeps. -/
theorem core_run_invariant {P : State → Prop} (hstep : ∀ s, P s → ∃ t, step s = .next t ∧ P t) (k : Nat) {s : State}
    (hs : P s) : ∃ t, Sys2Proof.core.run k s = .next t ∧ P t := by
  induction k generalizing s with
  | zero => exact ⟨s, core_run_zero s, hs⟩
  | succ k ih =>
    obtain ⟨u, hu, hPu⟩ := hstep s hs
    obtain ⟨t, ht, hPt⟩ := ih hPu
    exact ⟨t, by rw [core_run_succ hu, ht], hPt⟩

/-- The first other move is one of the moves, and it leaves no move that was not there. -/
theorem firstOtherMove_subset {ms ms' : List HostMove} {m : HostMove} (h : firstOtherMove ms = some (m, ms')) :
    m ∈ ms ∧ ms' ⊆ ms := by
  induction ms generalizing m ms' with
  | nil => cases h
  | cons a as ih =>
    cases a with
    | byte b =>
      simp only [firstOtherMove, Option.map_eq_some_iff] at h
      obtain ⟨⟨m1, r1⟩, h1, h2⟩ := h
      cases h2
      obtain ⟨hmem, hsub⟩ := ih h1
      exact ⟨List.mem_cons_of_mem _ hmem, List.cons_subset_cons _ hsub⟩
    | popOut _ | popDiag | teardown | reset =>
      cases h
      exact ⟨List.mem_cons_self, List.subset_cons_self _ _⟩

/-- `t` waits with the frame, the queues and the count of `s`, a sentinel next on IN, and nothing but bytes and pops
queued behind it. -/
structure WaitsAs (s t : State) : Prop where
  torn : t.torn = s.torn
  cfg : t.cfg = s.cfg
  frameNow : t.frameNow = s.frameNow
  abuf : t.abuf = s.abuf
  pos : t.pos = s.pos
  outq : t.outq = s.outq
  diagq : t.diagq = s.diagq
  events : t.events = s.events
  agenda : ∃ rest, t.agenda = .byte sentinel :: rest ∧ HostMove.teardown ∉ rest ∧ HostMove.reset ∉ rest

/-- With a capacity of 0 a sentinel that must emit waits, whatever has been taken. -/
theorem WaitsAs.waitsOn {s t : State} (h : WaitsAs s t) (ht : s.torn = false) (hcap : s.cfg.outqCap = some 0)
    (hlen : 3 ≤ s.frameNow.length) : t.waitsOn sentinel = true := by
  have hfull : t.outFull = true := atCapacity_eq_true.2 ⟨0, by rw [h.cfg, hcap], Nat.zero_le _⟩
  have hb : t.blocked = true := by rw [State.blocked_eq, hfull, h.frameNow, decide_eq_true hlen, Bool.and_self]
  exact State.waitsOn_iff.2 ⟨h.torn.trans ht, rfl, hb⟩

/-- A waiting block only takes pops, and stays as it was but for them. -/
theorem WaitsAs.step {s t : State} (h : WaitsAs s t) (hw : t.waitsOn sentinel = true) :
    ∃ u, step t = .next u ∧ WaitsAs s u := by
  obtain ⟨rest, ha, hteardown, hreset⟩ := h.agenda
  rw [step_waits ha hw, waitingStep, ha]
  match hm : firstOtherMove rest with
  | none => exact ⟨t, by simp [firstOtherMove, hm], h⟩
  | some (m, ms) =>
    obtain ⟨hmem, hsub⟩ := firstOtherMove_subset hm
    have hagenda : ∃ r, HostMove.byte sentinel :: ms = .byte sentinel :: r ∧
        HostMove.teardown ∉ r ∧ HostMove.reset ∉ r :=
      ⟨ms, rfl, fun hx => hteardown (hsub hx), fun hx => hreset (hsub hx)⟩
    cases m with
    | byte b => exact absurd rfl (firstOtherMove_ne_byte hm b)
    | popOut c =>
      refine ⟨_, by rw [firstOtherMove, hm]; rfl, ?_⟩
      rw [State.popOut_eq]
      exact { h with agenda := hagenda }
    | popDiag =>
      refine ⟨_, by rw [firstOtherMove, hm]; rfl, ?_⟩
      rw [State.popDiag_eq]
      exact { h with agenda := hagenda }
    | teardown => exact absurd hmem hteardown
    | reset => exact absurd hmem hreset

/-- Settles O43: no step ends the waiting, so no number of steps does. -/
theorem zeroCapacityNeverEmits : Obligations.ZeroCapacityNeverEmits := by
  intro s moves payload t0 t1 ht hcap hframe hp
  have hfull : s.outFull = true := atCapacity_eq_true.2 ⟨0, hcap, Nat.zero_le _⟩
  have hb := State.blocked_of_payload hfull hframe hp
  have hlen : 3 ≤ s.frameNow.length := by
    rw [State.blocked_eq, Bool.and_eq_true, decide_eq_true_iff] at hb
    exact hb.2
  refine ⟨exec_flag_blocked hb, fun ha hteardown hreset k => ?_⟩
  have hself : WaitsAs s s := ⟨rfl, rfl, rfl, rfl, rfl, rfl, rfl, rfl, moves, ha, hteardown, hreset⟩
  obtain ⟨t, hrun, h⟩ := core_run_invariant (fun u hu => hu.step (hu.waitsOn ht hcap hlen)) k hself
  obtain ⟨rest, hrest, -⟩ := h.agenda
  exact ⟨t, hrun, ⟨rest, hrest⟩, h.frameNow, h.abuf, h.pos, h.outq, h.diagq, h.events⟩

end Sys2Proof.Machine
end

section
/-! The host's moves (rules R32 to R35, R146, R156, R158) and the step on a presented byte. -/

namespace Sys2Proof.Machine

/-- Settles O33, by the definition of the reset state. -/
theorem resetLeavesAnEmptyDecoder : Obligations.ResetLeavesAnEmptyDecoder :=
  ⟨fun _ => rfl, rfl⟩

/-! ### One lemma for each move that comes next -/

section Moves

variable {s : State} {ms : List HostMove}

theorem step_idle (ha : s.agenda = []) : step s = .next s := by
  unfold step hostStep
  rw [ha]

theorem step_popOut {c : Nat} (ha : s.agenda = .popOut c :: ms) : step s = .next ((s.withAgenda ms).popOut c) := by
  unfold step hostStep
  rw [ha]

theorem step_popDiag (ha : s.agenda = .popDiag :: ms) : step s = .next (s.withAgenda ms).popDiag := by
  unfold step hostStep
  rw [ha]

theorem step_teardown (ha : s.agenda = .teardown :: ms) : step s = .next (s.withAgenda ms).tearDown := by
  unfold step hostStep
  rw [ha]

theorem step_reset (ha : s.agenda = .reset :: ms) : step s = .next (s.withAgenda ms).hostReset := by
  unfold step hostStep
  rw [ha]

end Moves

/-- Settles O41. -/
theorem idleBlockKeepsItsState : Obligations.IdleBlockKeepsItsState := fun _ => step_idle

/-- Settles O40, by the meaning of a reset. -/
theorem hostResetBeginsANewExecution : Obligations.HostResetBeginsANewExecution := fun _ _ => step_reset

/-- Settles O38, by the pops as updates. -/
theorem popsTakeTheOldest : Obligations.PopsTakeTheOldest := by
  refine fun s c ms => ⟨fun ha => ⟨fun p hp => ?_, fun hnone => ?_⟩, fun ha => ⟨fun d hd => ?_, fun hnone => ?_⟩⟩
  · rw [step_popOut ha, State.popOut_eq, State.withAgenda_outq, State.withAgenda_outTaken, hp]; rfl
  · rw [step_popOut ha, State.popOut_eq, State.withAgenda_outq, State.withAgenda_outTaken, hnone]; simp [State.withAgenda]
  · rw [step_popDiag ha, State.popDiag_eq, State.withAgenda_diagq, State.withAgenda_diagTaken, hd]; rfl
  · rw [step_popDiag ha, State.popDiag_eq, State.withAgenda_diagq, State.withAgenda_diagTaken, hnone]; simp [State.withAgenda]

/-! ### Teardown -/

/-- One pop for each payload that OUT holds, by any consumers, gives them out in order and drains OUT. -/
theorem run_drain (consumers : List Nat) (ms : List HostMove) {s : State} (hlen : consumers.length = s.outHeld)
    (ha : s.agenda = consumers.map HostMove.popOut ++ ms) :
    ∃ t, Sys2Proof.core.run consumers.length s = .next t ∧ t.agenda = ms ∧ t.outq = s.outq ∧ t.torn = s.torn ∧
      t.outTaken = s.outTaken ++ consumers.zip (s.outq.drop s.outTaken.length) ∧ t.outHeld = 0 := by
  induction consumers generalizing s with
  | nil => exact ⟨s, rfl, ha, rfl, rfl, by simp, hlen.symm⟩
  | cons c cs ih =>
    have hlt : s.outTaken.length < s.outq.length := by
      rw [State.outHeld, List.length_cons] at hlen
      omega
    have hdrop := List.drop_eq_getElem_cons hlt
    have htook (rest : List HostMove) : ((s.withAgenda rest).popOut c).outTaken =
        s.outTaken ++ [(c, s.outq[s.outTaken.length])] := by
      rw [State.popOut_eq, State.withAgenda_outq, State.withAgenda_outTaken, List.getElem?_eq_getElem hlt]; rfl
    obtain ⟨t, hrun, hagenda, houtq, htorn, htaken, hheld⟩ := ih
      (s := (s.withAgenda (cs.map HostMove.popOut ++ ms)).popOut c)
      (by rw [State.popOut_outHeld]; exact (Nat.sub_eq_of_eq_add hlen.symm).symm) (State.popOut_agenda _ c)
    rw [State.popOut_outq] at houtq htaken
    rw [htook, List.length_append] at htaken
    refine ⟨t, (core_run_succ (step_popOut ha) _).trans hrun, hagenda, houtq, htorn.trans (State.popOut_torn _ c), ?_,
      hheld⟩
    rw [htaken, hdrop, List.zip_cons_cons, List.append_assoc]; rfl

/-- Settles O39: teardown by its definition, the draining by `run_drain`. -/
theorem teardownEndsTheExecution : Obligations.TeardownEndsTheExecution := by
  intro s ms
  refine ⟨fun ht => ?_, fun ha => ?_, fun ht consumers hlen ha => ?_, fun b ht ha => ?_⟩
  · rw [State.seenClosed, ht, Bool.false_and]
  · refine ⟨_, step_teardown ha, rfl, rfl, rfl, rfl, rfl, rfl, rfl, rfl, rfl, rfl, ?_⟩
    rw [State.seenClosed_iff]
    exact and_iff_right rfl
  · obtain ⟨t, hrun, hagenda, houtq, htorn, htaken, hheld⟩ := run_drain consumers ms hlen ha
    exact ⟨t, hrun, hagenda, houtq, htaken, (State.seenClosed_iff t).2 ⟨htorn.trans ht, hheld⟩⟩
  · have hw : s.waitsOn b = false := by simp [State.waitsOn_eq, ht]
    rw [step_byte ha hw, byteStep_torn (s := s.withAgenda ms) ht]

/-! ### The step on a presented byte -/

/-- In the reference form the byte step is the meaning of the arrival symbol. -/
theorem byteStep_reference {s : State} (ht : s.torn = false) (hform : s.cfg.form = .reference) (b : Byte) :
    byteStep b s = exec (decodeIn .arrival b) s := by
  rw [byteStep, if_neg (by simp [ht]), State.context_reference hform]
  by_cases hb : b = sentinel
  · subst hb; exact onNext_id _
  · show symbolStep (decodeArrival b) s = exec (decodeArrival b) s
    rw [decodeArrival_other hb]; exact onNext_id _

/-- In the streaming form a non-sentinel byte with room for it runs its level 2 symbol and is counted. -/
theorem byteStep_streaming {s : State} {b : Byte} (ht : s.torn = false) (hform : s.cfg.form = .streaming)
    (hb : b ≠ sentinel) (hroom : atCapacity s.cfg.abufCap s.rawLen = false) :
    byteStep b s = onNext State.consumedStream (exec (decodeIn (.stream s.esc) b) s) := by
  rw [byteStep, if_neg (by simp [ht]), State.context_streaming hform, decodeIn_stream, decodeStream_eq, if_neg hb,
    symbolStep, decodePass_level, if_neg (by simp [State.streamOverflow, hroom])]
  rfl

/-- Settles O4, by the two organisations. -/
theorem stepRunsTheDecodedSymbol : Obligations.StepRunsTheDecodedSymbol := by
  intro s b ms ha ht hw
  rw [step_byte ha hw]
  refine ⟨fun hform => byteStep_reference (s := s.withAgenda ms) ht hform b, fun hform hroom => ?_⟩
  split
  · next hb => rw [hb]; exact byteStep_sentinel (s := s.withAgenda ms) ht
  · next hb => exact byteStep_streaming (s := s.withAgenda ms) ht hform hb (hroom.resolve_left hb)

end Sys2Proof.Machine
end

section
/-! The pass over whole raw frames (42_unescape.md section 3, 30_encoding.md sections 6 and 8). -/

namespace Sys2Proof.Machine

/-- Settles O16, by the round trip of a pass from a clear flag. -/
theorem unescapeUndoesStuff : Obligations.UnescapeUndoesStuff :=
  fun s => Pass.over_stuff s Pass.start_esc

/-- The last byte of a buffer is one more iteration. -/
theorem unescape_concat (buffer : List Byte) (b : Byte) : unescape (buffer ++ [b]) = (unescape buffer).step b :=
  unescape_append buffer [b]

/-- An escaping pass takes the next marker as an operand, another pass sets its flag. -/
theorem unescape_replicate_marker (n : Nat) : unescape (List.replicate n escapeMarker) =
    { out := List.replicate (n / 2) 0x5D#8, esc := decide (n % 2 = 1) } := by
  induction n with
  | zero => rfl
  | succ n ih =>
    obtain hn | hn : n % 2 = 0 ∨ n % 2 = 1 := Nat.mod_two_eq_zero_or_one n
    · have hesc : (unescape (List.replicate n escapeMarker)).esc = false := by simp [ih, hn]
      have hdiv : (n + 1) / 2 = n / 2 := by omega
      have hodd : (n + 1) % 2 = 1 := by omega
      rw [List.replicate_succ', unescape_concat, Pass.step_marker hesc, ih, hdiv, decide_eq_true hodd]; rfl
    · have hesc : (unescape (List.replicate n escapeMarker)).esc = true := by simp [ih, hn]
      have hdiv : (n + 1) / 2 = n / 2 + 1 := by omega
      have heven : ¬ (n + 1) % 2 = 1 := by omega
      rw [List.replicate_succ', unescape_concat, Pass.step_escaping hesc, ih, hdiv, decide_eq_false heven,
        List.replicate_succ']; rfl

/-- Settles O13, by induction on the number of markers. -/
theorem markersDoNotStack : Obligations.MarkersDoNotStack := unescape_replicate_marker

/-! ### Lengths -/

/-- The effective escape pairs of a raw frame, from a given value of the flag. -/
def xlitCount (esc : Bool) (r : List Byte) : Nat :=
  (decodeRun esc r).countP fun i => i.mnemonic == .XLIT

@[simp] theorem xlitCount_nil (esc : Bool) : xlitCount esc [] = 0 := rfl

/-- A byte is an effective pair's operand exactly when it is met while escaping. -/
theorem xlitCount_cons (p : Pass) (b : Byte) (bs : List Byte) :
    xlitCount p.esc (b :: bs) = xlitCount (p.step b).esc bs + p.esc.toNat := by
  unfold xlitCount
  rw [decodeRun_cons, List.countP_cons, Pass.step_esc]
  obtain ⟨he, e⟩ | ⟨he, -, e⟩ | ⟨he, -, e⟩ := decodePass_cases p.esc b <;> rw [e, he] <;> rfl

/-- The length law of a pass that goes on from anywhere. -/
theorem Pass.over_length (r : List Byte) (p : Pass) :
    (p.over r).out.length + xlitCount p.esc r + (p.over r).esc.toNat = p.out.length + p.esc.toNat + r.length := by
  induction r generalizing p with
  | nil => simp
  | cons b bs ih =>
    have hstep := p.step_length b
    have hrest := ih (p.step b)
    rw [Pass.over_cons, xlitCount_cons, List.length_cons]
    omega

/-- Each effective pair has appended its operand. -/
theorem Pass.xlitCount_le (r : List Byte) (p : Pass) : p.out.length + xlitCount p.esc r ≤ (p.over r).out.length := by
  induction r generalizing p with
  | nil => simp
  | cons b bs ih =>
    have hstep := p.step_length b
    have hclear : p.esc = true → (p.step b).esc = false := fun h => by rw [Pass.step_escaping h, Pass.xlit_esc]
    have hrest := ih (p.step b)
    rw [Pass.over_cons, xlitCount_cons]
    cases he : p.esc with
    | true =>
      rw [hclear he] at hstep hrest ⊢
      simp only [Bool.toNat_false, Bool.toNat_true] at hstep ⊢
      omega
    | false =>
      have hflag := (p.step b).esc.toNat_le
      simp only [Bool.toNat_false]
      omega

theorem Pass.over_length_le (r : List Byte) (p : Pass) : (p.over r).out.length ≤ p.out.length + r.length := by
  induction r generalizing p with
  | nil => simp
  | cons b bs ih =>
    have hstep := p.step_length b
    have hrest := ih (p.step b)
    rw [Pass.over_cons, List.length_cons]
    omega

/-- The first marker of a raw frame appends nothing, and nothing after it makes up for that. -/
theorem unescape_length_lt {r : List Byte} (h : escapeMarker ∈ r) : (unescape r).out.length < r.length := by
  obtain ⟨x, y, rfl, hx⟩ := List.eq_append_cons_of_mem h
  have hlit : unescape x = { out := x, esc := false } := Pass.over_literal hx Pass.start_esc
  have hle := Pass.over_length_le y ((unescape x).step escapeMarker)
  rw [hlit, Pass.step_marker rfl, Pass.escm_out] at hle
  rw [unescape_append, hlit, Pass.over_cons, Pass.step_marker rfl, List.length_append, List.length_cons]
  exact Nat.lt_of_le_of_lt hle (Nat.lt_succ_self _)

/-- Settles O14: the law and the bound for a pass from an empty output and a clear flag, and the first marker, if there
is one, for the case of equality. -/
theorem unescapeLengthLaw : Obligations.UnescapeLengthLaw := by
  intro r
  have hlaw : (unescape r).out.length + xlitCount false r + (unescape r).esc.toNat = r.length := by
    simpa [unescape] using Pass.over_length r Pass.start
  have hle : xlitCount false r ≤ (unescape r).out.length := by
    simpa [unescape] using Pass.xlitCount_le r Pass.start
  refine ⟨hlaw, ?_, fun heq hmem => ?_, fun hno => ?_⟩
  · have hflag := (unescape r).esc.toNat_le
    omega
  · exact (unescape_length_lt hmem).ne heq
  · rw [unescape, Pass.over_literal hno Pass.start_esc]; rfl

/-! ### A marker that ends a frame -/

/-- Delivery depends on what is held only through the frame that it closes. -/
theorem State.deliver_congr {s t : State} (hframe : s.frameNow = t.frameNow)
    (hrest : t = { s with abuf := t.abuf, esc := t.esc, ubuf := t.ubuf, rawLen := t.rawLen }) :
    s.deliver = t.deliver := by
  rw [State.deliver_eq, State.deliver_eq, ← hframe, hrest]

/-- Two blocks that differ only in what they hold, but close the same frame, answer a sentinel alike, with nothing left
for the next frame. -/
theorem exec_flag_same_frame {s t : State} (hframe : s.frameNow = t.frameNow)
    (hrest : t = { s with abuf := t.abuf, esc := t.esc, ubuf := t.ubuf, rawLen := t.rawLen })
    (hroom : s.outFull = true → s.frameNow.length < 3) :
    exec .flag s = exec .flag t ∧
      ∃ u, exec .flag s = .next u ∧ u.abuf = [] ∧ u.ubuf = [] ∧ u.esc = false := by
  have hroom' : t.outFull = true → t.frameNow.length < 3 := by rw [← hframe, hrest]; exact hroom
  rw [exec_flag_room hroom, exec_flag_room hroom', State.deliver_congr hframe hrest, State.deliver_eq]
  exact ⟨rfl, _, rfl, rfl, rfl, rfl⟩

/-- After a marker met while not escaping the flag is set and the output is as before. -/
theorem unescape_dangling {r : List Byte} (h : (unescape r).esc = false) :
    unescape (r ++ [escapeMarker]) = { out := (unescape r).out, esc := true } := by
  rw [unescape_concat, Pass.step_marker h]; rfl

/-- The first byte of a frame is no operand. -/
theorem Pass.over_first {p : Pass} {b : Byte} (hout : p.out = []) (hesc : p.esc = false) (hb : b ≠ escapeMarker) :
    (p.over [b]).out = [b] := by
  rw [Pass.over_cons, Pass.over_nil, Pass.step_literal hesc hb, Pass.lit_out, hout]; rfl

/-- Settles O12: with and without the marker the same frame is closed, in either organisation. -/
theorem danglingEscapeIsDropped : Obligations.DanglingEscapeIsDropped := by
  refine ⟨fun s => (decodeIn_context_flag s _).2 rfl, fun r m hr => ⟨unescape_dangling hr, ?_, ?_, ?_⟩⟩
  · exact congrArg (fun p => frameResultOf m p.out) (unescape_dangling hr)
  · intro s hform hroom
    have hmarked : State.frameNow { s with abuf := r ++ [escapeMarker] } = (unescape r).out := by
      rw [State.frameNow_reference (s := { s with abuf := r ++ [escapeMarker] }) hform, unescape_dangling hr]
    have hplain : State.frameNow { s with abuf := r } = (unescape r).out :=
      State.frameNow_reference (s := { s with abuf := r }) hform
    obtain ⟨heq, u, hu, habuf, -, hesc⟩ := exec_flag_same_frame (s := { s with abuf := r ++ [escapeMarker] })
      (t := { s with abuf := r }) (hmarked.trans hplain.symm) rfl (by rw [hmarked]; exact hroom)
    refine ⟨heq, u, hu, habuf, hesc, fun b hb => ?_⟩
    rw [habuf]
    exact Pass.over_first rfl rfl hb
  · intro s hform hroom
    have hpending := State.frameNow_streaming (s := { s with esc := true }) hform
    have hclear := State.frameNow_streaming (s := { s with esc := false }) hform
    obtain ⟨heq, u, hu, -, hubuf, hesc⟩ := exec_flag_same_frame (s := { s with esc := true })
      (t := { s with esc := false }) (hpending.trans hclear.symm) rfl (by rw [hpending]; exact hroom)
    exact ⟨heq, u, hu, hubuf, hesc, fun b hb => Pass.over_first hubuf hesc hb⟩

end Sys2Proof.Machine
end

section
/-! `CRC16` (43_crc16.md section 2) and the comparison with the trailer (44_trailer.md section 2). -/

namespace Sys2Proof.Machine

/-! ### The halves of a word16 and shifts by a byte -/

/-- A word16 is its two bytes, XORed in their places. -/
theorem xor_halves (w : Word16) : (zext16 (highByte w) <<< 8) ^^^ zext16 (lowByte w) = w := by
  apply BitVec.eq_of_getLsbD_eq
  intro i hi
  by_cases h : i < 8
  · simp [zext16, highByte, lowByte, h, hi]
  · have hhigh : i - 8 < 8 := by omega
    have hback : 8 + (i - 8) = i := by omega
    simp [zext16, highByte, lowByte, h, hi, hhigh, hback]

/-- The high byte of a word16 is lost when it moves up. -/
theorem shiftLeft_eight (w : Word16) : w <<< 8 = zext16 (lowByte w) <<< 8 := by
  apply BitVec.eq_of_toNat_eq
  simp only [BitVec.toNat_shiftLeft, Nat.shiftLeft_eq, zext16_toNat, lowByte_toNat]
  omega

theorem highByte_shiftLeft_eight (w : Word16) : highByte (w <<< 8) = lowByte w := by
  apply BitVec.eq_of_toNat_eq
  rw [highByte_toNat, lowByte_toNat, BitVec.toNat_shiftLeft, Nat.shiftLeft_eq]
  omega

/-! ### The table form -/

theorem crcRound_of_lt {acc : Word16} (h : acc.toNat < 2 ^ 15) : crcRound acc = acc <<< 1 := by
  have hbit : acc.getLsbD 15 = false := Nat.testBit_lt_two_pow h
  rw [crcRound, hbit]; rfl

/-- As long as the tested bit is 0, a round is a shift. -/
theorem crcRounds_of_lt (n : Nat) {acc : Word16} (h : acc.toNat * 2 ^ n < 2 ^ 16) : crcRounds n acc = acc <<< n := by
  induction n generalizing acc with
  | zero => exact (BitVec.shiftLeft_zero acc).symm
  | succ n ih =>
    have hpow : acc.toNat * 2 ^ (n + 1) = acc.toNat * 2 * 2 ^ n := by
      rw [Nat.pow_succ', Nat.mul_assoc]
    have hshift : (acc <<< 1).toNat ≤ acc.toNat * 2 := by
      rw [BitVec.toNat_shiftLeft, Nat.shiftLeft_eq]
      exact Nat.mod_le _ _
    have htop : acc.toNat < 2 ^ 15 := by
      have := Nat.le_mul_of_pos_right (acc.toNat * 2) (Nat.two_pow_pos n)
      omega
    have hnext : (acc <<< 1).toNat * 2 ^ n < 2 ^ 16 :=
      Nat.lt_of_le_of_lt (Nat.mul_le_mul_right _ hshift) (hpow ▸ h)
    rw [crcRounds, crcRound_of_lt htop, ih hnext, ← BitVec.shiftLeft_add, Nat.add_comm]

theorem crcRounds_zext16 (b : Byte) : crcRounds 8 (zext16 b) = zext16 b <<< 8 := by
  have hb := b.isLt
  exact crcRounds_of_lt 8 (by rw [zext16_toNat]; omega)

theorem crc16_singleton (b : Byte) : crc16 [b] = crcRounds 8 (zext16 b <<< 8) := by
  have hzero : crcInit ^^^ (zext16 b <<< 8) = zext16 b <<< 8 := BitVec.zero_xor
  show crcRounds 8 (crcInit ^^^ (zext16 b <<< 8)) = _
  rw [hzero]

/-- The table form of the byte step (rule R119): the low byte only moves up, and the high byte meets the new one. -/
theorem crcByte_table (acc : Word16) (b : Byte) : crcByte acc b = (acc <<< 8) ^^^ crc16 [highByte acc ^^^ b] :=
  calc crcByte acc b
      = crcRounds 8 ((zext16 (highByte acc) <<< 8) ^^^ zext16 (lowByte acc) ^^^ (zext16 b <<< 8)) := by
        rw [xor_halves]; rfl
    _ = crcRounds 8 (zext16 (lowByte acc) ^^^ (zext16 (highByte acc ^^^ b) <<< 8)) := by
        rw [zext16_xor, BitVec.shiftLeft_xor_distrib]
        congr 1
        ac_rfl
    _ = (acc <<< 8) ^^^ crc16 [highByte acc ^^^ b] := by
        rw [crcRounds_xor, crcRounds_zext16, ← shiftLeft_eight, crc16_singleton]

theorem crc16_append (x y : List Byte) : crc16 (x ++ y) = crcFrom (crc16 x) y :=
  crcFrom_append crcInit x y

/-- Settles O19, by the table form and the loop over a concatenation. -/
theorem crcTableAndIncrementalForms : Obligations.CrcTableAndIncrementalForms := by
  refine ⟨crcByte_table, fun x y => ?_⟩
  rw [crc16_append, crcFrom, funext fun acc => funext (crcByte_table acc)]

/-! ### The zero initial value -/

theorem crc16_zero : crc16 [0x00#8] = 0x0000#16 :=
  crcRounds_zero 8

theorem crcFrom_replicate_zero (n : Nat) : crcFrom 0x0000#16 (List.replicate n 0x00#8) = 0x0000#16 := by
  induction n with
  | zero => rfl
  | succ n ih =>
    have hbyte : crcByte 0x0000#16 0x00#8 = 0x0000#16 := crc16_zero
    rw [List.replicate_succ, crcFrom_cons, hbyte, ih]

theorem crcFrom_zipWith_xor (a b : List Byte) (hlen : a.length = b.length) (x y : Word16) :
    crcFrom (x ^^^ y) (List.zipWith (· ^^^ ·) a b) = crcFrom x a ^^^ crcFrom y b := by
  induction a generalizing b x y with
  | nil =>
    obtain rfl := List.length_eq_zero_iff.1 hlen.symm
    rfl
  | cons c cs ih =>
    obtain ⟨d, ds, rfl⟩ := List.exists_cons_of_length_eq_add_one hlen.symm
    rw [List.zipWith_cons_cons, crcFrom_cons, crcFrom_cons, crcFrom_cons, crcByte_xor, ih ds (Nat.succ.inj hlen)]

/-- The high byte of an accumulator cancels against it, so that the low byte alone moves up. -/
theorem crcByte_highByte (w : Word16) : crcByte w (highByte w) = w <<< 8 := by
  rw [crcByte_table, BitVec.xor_self, crc16_zero, BitVec.xor_zero]

/-- The CRC's own two bytes, high byte first, leave nothing. -/
theorem crcFrom_own_bytes (w : Word16) : crcFrom w [highByte w, lowByte w] = 0x0000#16 := by
  have hlow := crcByte_highByte (w <<< 8)
  rw [highByte_shiftLeft_eight, ← BitVec.shiftLeft_add, BitVec.shiftLeft_eq_zero (Nat.le_refl 16)] at hlow
  rw [crcFrom_cons, crcByte_highByte, crcFrom_cons, hlow, crcFrom_nil]

/-- Settles O20: the three laws of the loop from a zero accumulator. -/
theorem crcZeroInitialValueLaws : Obligations.CrcZeroInitialValueLaws := by
  refine ⟨fun n m => ?_, fun a b hlen => ?_, fun m => ?_⟩
  · rw [crc16_append, crc16, crcInit, crcFrom_replicate_zero]; rfl
  · exact crcFrom_zipWith_xor a b hlen crcInit crcInit
  · rw [crc16_append, crcFrom_own_bytes]

/-- Settles O18, by evaluating the rounds. -/
theorem crcReferenceValues : Obligations.CrcReferenceValues := by
  unfold Obligations.CrcReferenceValues
  decide +kernel

/-! ### The comparison -/

theorem mismatch_eq_false {x y : Word16} : mismatch x y = false ↔ x = y := by
  simp [mismatch]

/-- A word16 is a zero-extended byte exactly when it is below 256 and that byte is its low one (decision D20). -/
theorem eq_zext16_iff (w : Word16) (b : Byte) : w = zext16 b ↔ w.toNat < 256 ∧ b = lowByte w := by
  have hb := b.isLt
  rw [← BitVec.toNat_inj, ← BitVec.toNat_inj (x := b), zext16_toNat, lowByte_toNat]
  omega

theorem eq_cat16_iff (w : Word16) (hi lo : Byte) : w = cat16 hi lo ↔ lo = lowByte w ∧ hi = highByte w := by
  constructor
  · rintro rfl
    exact ⟨(lowByte_cat16 hi lo).symm, (highByte_cat16 hi lo).symm⟩
  · rintro ⟨rfl, rfl⟩
    exact (cat16_highByte_lowByte w).symm

/-- Settles O22: the comparison is equality, with a zero-extended byte in mode A and with two bytes in mode B. -/
theorem whenTheComparisonMatches : Obligations.WhenTheComparisonMatches :=
  fun p t => ⟨mismatch_eq_false.trans (eq_zext16_iff (crc16 p) t.t1),
    mismatch_eq_false.trans (eq_cat16_iff (crc16 p) t.t1 t.t0)⟩

end Sys2Proof.Machine
end

section
/-! Feed (rules R75, R76): chunks, and a chunk as a run of the machine. -/

namespace Sys2Proof.Machine

@[simp] theorem feed_nil (s : State) : feed [] s = .next (s, []) := rfl

section FeedCons

variable {s : State} {b : Byte} (bs : List Byte)

theorem feed_cons_waits (hw : s.waitsOn b = true) : feed (b :: bs) s = .next (s, b :: bs) := by
  rw [feed, if_pos hw]

theorem feed_cons_next {t : State} (hw : s.waitsOn b = false) (hst : byteStep b s = .next t) :
    feed (b :: bs) s = feed bs t := by
  rw [feed, if_neg (by simp [hw]), hst]

theorem feed_cons_refused {r : Refusal} (hw : s.waitsOn b = false) (hst : byteStep b s = .refused r) :
    feed (b :: bs) s = .refused r := by
  rw [feed, if_neg (by simp [hw]), hst]

end FeedCons

/-- Settles O27, by induction on the first chunk: its first byte waits, steps or is refused in both feeds alike. -/
theorem chunkingIsInvisible : Obligations.ChunkingIsInvisible := by
  refine ⟨feed_nil, fun c1 c2 s => ?_⟩
  induction c1 generalizing s with
  | nil => rfl
  | cons b bs ih =>
    rw [List.cons_append]
    cases hw : s.waitsOn b with
    | true => rw [feed_cons_waits _ hw, feed_cons_waits _ hw]; rfl
    | false =>
      match hst : byteStep b s with
      | .next t => rw [feed_cons_next _ hw hst, feed_cons_next _ hw hst]; exact ih t
      | .refused r => rw [feed_cons_refused _ hw hst, feed_cons_refused _ hw hst]
      | .fault r => exact nomatch r

/-- A byte step leaves the host's further moves as they are. -/
theorem byteStep_agenda {s t : State} {b : Byte} (hw : s.waitsOn b = false) (hst : byteStep b s = .next t) :
    t.agenda = s.agenda := by
  have hself := byteStep_withAgenda hw s.agenda
  rw [State.withAgenda_agenda_self, hst, onNext_next] at hself
  injection hself with heq
  rw [heq, State.withAgenda_agenda]

/-- Settles O28, by induction on the chunk: a byte that is fed is the step of the machine that has it next on IN. -/
theorem feedIsTheRunOfItsBytes : Obligations.FeedIsTheRunOfItsBytes := by
  intro bytes
  induction bytes with
  | nil =>
    intro s t h
    cases h
    rfl
  | cons b bs ih =>
    intro s t h
    cases hw : s.waitsOn b with
    | true => rw [feed_cons_waits _ hw] at h; cases h
    | false =>
      match hst : byteStep b s with
      | .next u =>
        rw [feed_cons_next _ hw hst] at h
        have hstep : step (s.withAgenda ((b :: bs).map HostMove.byte ++ s.agenda)) =
            .next (u.withAgenda (bs.map HostMove.byte ++ s.agenda)) := by
          rw [step_byte rfl (by rwa [State.waitsOn_withAgenda]), State.withAgenda_withAgenda,
            byteStep_withAgenda hw, hst, onNext_next]
          rfl
        rw [List.length_cons, core_run_succ hstep, ← byteStep_agenda hw hst]
        exact ih u t h
      | .refused r => rw [feed_cons_refused _ hw hst] at h; cases h
      | .fault r => exact nomatch r

end Sys2Proof.Machine
end

section
/-! Whole streams with unbounded stores (40_feed.md sections 3 and 4): every byte has a next state, which `State.fed`
gives as a function, and what a block holds of its run is one pass in both organisations, `State.held`. -/

namespace Sys2Proof.Machine

/-! ### The state after some bytes -/

/-- The state after one byte, when no store is bounded. -/
def State.fedByte (s : State) (b : Byte) : State :=
  if b = sentinel then s.deliver.consumed else s.taken b

/-- The state after some bytes, when no store is bounded (`feed_eq_fed`). -/
def State.fed (s : State) (bytes : List Byte) : State :=
  bytes.foldl State.fedByte s

@[simp] theorem State.fedByte_sentinel (s : State) : s.fedByte sentinel = s.deliver.consumed := rfl

theorem State.fedByte_other (s : State) {b : Byte} (hb : b ≠ sentinel) : s.fedByte b = s.taken b := if_neg hb

@[simp] theorem State.fed_nil (s : State) : s.fed [] = s := rfl

@[simp] theorem State.fed_cons (s : State) (b : Byte) (bs : List Byte) : s.fed (b :: bs) = (s.fedByte b).fed bs := rfl

theorem State.fed_append (s : State) (x y : List Byte) : s.fed (x ++ y) = (s.fed x).fed y :=
  List.foldl_append

@[simp] theorem State.fedByte_cfg (s : State) (b : Byte) : (s.fedByte b).cfg = s.cfg := by
  unfold State.fedByte
  split
  · rw [State.deliver_eq]; rfl
  · exact s.taken_cfg b

@[simp] theorem State.fedByte_torn (s : State) (b : Byte) : (s.fedByte b).torn = s.torn := by
  unfold State.fedByte
  split
  · rw [State.deliver_eq]; rfl
  · exact s.taken_torn b

@[simp] theorem State.fedByte_agenda (s : State) (b : Byte) : (s.fedByte b).agenda = s.agenda := by
  unfold State.fedByte
  split
  · rw [State.deliver_eq]; rfl
  · exact s.taken_agenda b

@[simp] theorem State.fedByte_pos (s : State) (b : Byte) : (s.fedByte b).pos = s.pos + 1 := by
  unfold State.fedByte
  split
  · rw [State.deliver_eq]; rfl
  · exact s.taken_pos b

@[simp] theorem State.fed_cfg (s : State) (bytes : List Byte) : (s.fed bytes).cfg = s.cfg := by
  induction bytes generalizing s with
  | nil => rfl
  | cons b bs ih => rw [State.fed_cons, ih, State.fedByte_cfg]

@[simp] theorem State.fed_agenda (s : State) (bytes : List Byte) : (s.fed bytes).agenda = s.agenda := by
  induction bytes generalizing s with
  | nil => rfl
  | cons b bs ih => rw [State.fed_cons, ih, State.fedByte_agenda]

@[simp] theorem State.fed_pos (s : State) (bytes : List Byte) : (s.fed bytes).pos = s.pos + bytes.length := by
  induction bytes generalizing s with
  | nil => rfl
  | cons b bs ih => rw [State.fed_cons, ih, State.fedByte_pos, List.length_cons, Nat.add_assoc, Nat.add_comm 1]

theorem byteStep_eq_fedByte {s : State} (hu : s.cfg.Unbounded) (ht : s.torn = false) (b : Byte) :
    byteStep b s = .next (s.fedByte b) := by
  by_cases hb : b = sentinel
  · rw [hb, byteStep_sentinel ht, exec_flag_clear (State.blocked_of_unbounded hu), State.fedByte_sentinel]
  · rw [byteStep_room ht hb (State.runFull_of_unbounded hu), State.fedByte_other s hb]

/-- With unbounded stores a feed returns, with `State.fed`. -/
theorem feed_eq_fed (bytes : List Byte) {s : State} (hu : s.cfg.Unbounded) (ht : s.torn = false) :
    feed bytes s = .next (s.fed bytes, []) := by
  induction bytes generalizing s with
  | nil => rfl
  | cons b bs ih =>
    rw [feed_cons_next bs (State.waitsOn_of_unbounded hu b) (byteStep_eq_fedByte hu ht b), State.fed_cons]
    exact ih (by rwa [State.fedByte_cfg]) (by rwa [State.fedByte_torn])

/-- With unbounded stores the machine takes the bytes at the head of its agenda, one a step. -/
theorem run_eq_fed {s : State} {bytes : List Byte} {ms : List HostMove} (hu : s.cfg.Unbounded) (ht : s.torn = false)
    (ha : s.agenda = bytes.map HostMove.byte ++ ms) :
    Sys2Proof.core.run bytes.length s = .next ((s.withAgenda ms).fed bytes) := by
  have hrun := feedIsTheRunOfItsBytes bytes (s.withAgenda ms) _ (feed_eq_fed (s := s.withAgenda ms) bytes hu ht)
  rwa [State.withAgenda_agenda, State.withAgenda_withAgenda, ← ha, State.withAgenda_agenda_self] at hrun

/-! ### Emissions are bounded by sentinels -/

theorem State.fedByte_outq_length_le (s : State) (b : Byte) :
    (s.fedByte b).outq.length ≤ s.outq.length + if b = sentinel then 1 else 0 := by
  unfold State.fedByte
  split
  · rw [State.deliver_eq, State.consumed_outq, List.length_append]
    exact Nat.add_le_add_left Option.length_toList_le _
  · rw [State.taken_outq, Nat.add_zero]

theorem State.fedByte_diagq_length_le (s : State) (b : Byte) :
    (s.fedByte b).diagq.length ≤ s.diagq.length + if b = sentinel then 1 else 0 := by
  unfold State.fedByte
  split
  · rw [State.deliver_eq, State.consumed_diagq, List.length_append]
    exact Nat.add_le_add_left Option.length_toList_le _
  · rw [State.taken_diagq, Nat.add_zero]

theorem State.fed_queues_length_le (s : State) (bytes : List Byte) :
    (s.fed bytes).outq.length ≤ s.outq.length + bytes.countP (· = sentinel) ∧
    (s.fed bytes).diagq.length ≤ s.diagq.length + bytes.countP (· = sentinel) := by
  induction bytes generalizing s with
  | nil => exact ⟨Nat.le_refl _, Nat.le_refl _⟩
  | cons b bs ih =>
    have hout := s.fedByte_outq_length_le b
    have hdiag := s.fedByte_diagq_length_le b
    obtain ⟨ihout, ihdiag⟩ := ih (s.fedByte b)
    simp only [State.fed_cons, List.countP_cons, decide_eq_true_eq]
    exact ⟨by omega, by omega⟩

/-- Settles O29: the run is `State.fed`. -/
theorem presentedBytesAreConsumed : Obligations.PresentedBytesAreConsumed := by
  intro s bytes ms hu ht ha
  obtain ⟨hout, hdiag⟩ := (s.withAgenda ms).fed_queues_length_le bytes
  exact ⟨_, run_eq_fed hu ht ha, State.fed_agenda _ _, State.fed_pos _ _, hout, hdiag⟩

/-! ### What is held of a run -/

/-- The pass over the bytes of the current run: what a sentinel would make of `ABUF` in the reference form, what has
been unescaped so far in the streaming form. -/
def State.held (s : State) : Pass :=
  match s.cfg.form with
  | .reference => unescape s.abuf
  | .streaming => s.pass

theorem State.held_reference {s : State} (h : s.cfg.form = .reference) : s.held = unescape s.abuf := by
  rw [State.held, h]

theorem State.held_streaming {s : State} (h : s.cfg.form = .streaming) : s.held = s.pass := by
  rw [State.held, h]

theorem State.frameNow_eq_held (s : State) : s.frameNow = s.held.out := by
  cases h : s.cfg.form with
  | reference => rw [State.frameNow_reference h, State.held_reference h]
  | streaming => rw [State.frameNow_streaming h, State.held_streaming h, State.pass_out]

theorem State.held_taken (s : State) (b : Byte) : (s.taken b).held = s.held.step b := by
  cases h : s.cfg.form with
  | reference =>
    rw [State.held_reference (by rwa [State.taken_cfg]), State.held_reference h, State.taken_reference h]
    exact unescape_concat s.abuf b
  | streaming =>
    rw [State.held_streaming (by rwa [State.taken_cfg]), State.held_streaming h, State.taken_streaming h]
    rfl

/-- Nothing is held: the block is between two frames. -/
structure State.BetweenFrames (s : State) : Prop where
  abuf : s.abuf = []
  ubuf : s.ubuf = []
  esc : s.esc = false

theorem State.BetweenFrames.held {s : State} (h : s.BetweenFrames) : s.held = Pass.start := by
  cases hf : s.cfg.form with
  | reference => rw [State.held_reference hf, h.abuf, unescape_nil]
  | streaming => rw [State.held_streaming hf, State.pass, h.ubuf, h.esc]; rfl

theorem betweenFrames_resetWith (c : Config) : (State.resetWith c).BetweenFrames := ⟨rfl, rfl, rfl⟩

theorem betweenFrames_deliver (s : State) : s.deliver.consumed.BetweenFrames := by
  rw [State.deliver_eq]
  exact ⟨rfl, rfl, rfl⟩

theorem betweenFrames_fed_sentinel (s : State) (bytes : List Byte) : (s.fed (bytes ++ [sentinel])).BetweenFrames := by
  rw [State.fed_append]
  exact betweenFrames_deliver _

/-- A run without a sentinel only goes on with the pass. -/
theorem State.fed_run (s : State) {r : List Byte} (h : sentinel ∉ r) :
    (s.fed r).held = s.held.over r ∧ (s.fed r).outq = s.outq ∧ (s.fed r).diagq = s.diagq := by
  induction r generalizing s with
  | nil => exact ⟨rfl, rfl, rfl⟩
  | cons b bs ih =>
    rw [List.mem_cons, not_or] at h
    obtain ⟨hheld, hout, hdiag⟩ := ih (s.fedByte b) h.2
    rw [State.fed_cons, Pass.over_cons, hheld, hout, hdiag, State.fedByte_other s (Ne.symm h.1)]
    exact ⟨by rw [State.held_taken], State.taken_outq _ _, State.taken_diagq _ _⟩

/-- The reference form stores a run as it came, and leaves the flag alone. -/
theorem State.fed_run_reference (s : State) (hform : s.cfg.form = .reference) {r : List Byte} (h : sentinel ∉ r) :
    (s.fed r).abuf = s.abuf ++ r ∧ (s.fed r).esc = s.esc := by
  induction r generalizing s with
  | nil => exact ⟨(List.append_nil _).symm, rfl⟩
  | cons b bs ih =>
    rw [List.mem_cons, not_or] at h
    obtain ⟨habuf, hesc⟩ := ih (s.fedByte b) (by rwa [State.fedByte_cfg]) h.2
    rw [State.fed_cons, habuf, hesc, State.fedByte_other s (Ne.symm h.1), State.taken_reference hform]
    exact ⟨List.append_assoc _ _ _, rfl⟩

/-- From between two frames, a run closed by a sentinel gives what `FrameResult` says of it. -/
theorem State.fed_closed {s : State} (hs : s.BetweenFrames) {r : List Byte} (h : sentinel ∉ r) :
    (s.fed (r ++ [sentinel])).outq = s.outq ++ (frameResult s.cfg.trailerMode r).out.toList ∧
    (s.fed (r ++ [sentinel])).diagq = s.diagq ++ (frameResult s.cfg.trailerMode r).diag.toList := by
  obtain ⟨hheld, hout, hdiag⟩ := s.fed_run h
  have hframe : (s.fed r).frameNow = (unescape r).out := by rw [State.frameNow_eq_held, hheld, hs.held, unescape]
  rw [State.fed_append, State.fed_cons, State.fedByte_sentinel, State.fed_nil, State.deliver_eq, hframe, State.fed_cfg]
  exact ⟨congrArg (· ++ _) hout, congrArg (· ++ _) hdiag⟩

/-! ### Streams cut at their sentinels -/

@[simp] theorem joinRuns_nil (tail : List Byte) : joinRuns [] tail = tail := rfl

@[simp] theorem joinRuns_cons (r : List Byte) (rs : List (List Byte)) (tail : List Byte) :
    joinRuns (r :: rs) tail = (r ++ [sentinel]) ++ joinRuns rs tail := by
  simp [joinRuns]

/-- From between two frames, the queues grow by what each closed run gives, in order, and the tail is held. -/
theorem State.fed_joinRuns (runs : List (List Byte)) {tail : List Byte} (htail : sentinel ∉ tail) {s : State}
    (hs : s.BetweenFrames) (hruns : ∀ r ∈ runs, sentinel ∉ r) :
    (s.fed (joinRuns runs tail)).outq = s.outq ++ runs.filterMap (fun r => (frameResult s.cfg.trailerMode r).out) ∧
    (s.fed (joinRuns runs tail)).diagq = s.diagq ++ runs.filterMap (fun r => (frameResult s.cfg.trailerMode r).diag) ∧
    (s.fed (joinRuns runs tail)).held = unescape tail ∧
    (s.cfg.form = .reference →
      (s.fed (joinRuns runs tail)).abuf = tail ∧ (s.fed (joinRuns runs tail)).esc = false) := by
  induction runs generalizing s with
  | nil =>
    obtain ⟨hheld, hout, hdiag⟩ := s.fed_run htail
    refine ⟨hout.trans (List.append_nil _).symm, hdiag.trans (List.append_nil _).symm, ?_, fun hform => ?_⟩
    · rw [joinRuns_nil, hheld, hs.held, unescape]
    · obtain ⟨habuf, hesc⟩ := s.fed_run_reference hform htail
      rw [hs.abuf] at habuf
      exact ⟨habuf, hesc.trans hs.esc⟩
  | cons r rs ih =>
    obtain ⟨hout, hdiag⟩ := State.fed_closed hs (hruns r List.mem_cons_self)
    obtain ⟨ihout, ihdiag, ihheld, ihref⟩ := ih (betweenFrames_fed_sentinel s r)
      (fun r' hr' => hruns r' (List.mem_cons_of_mem r hr'))
    rw [State.fed_cfg] at ihout ihdiag ihref
    rw [joinRuns_cons, State.fed_append]
    refine ⟨?_, ?_, ihheld, ihref⟩
    · rw [ihout, hout, List.append_assoc, List.filterMap_eq_flatMap_toList, List.filterMap_eq_flatMap_toList,
        List.flatMap_cons]
    · rw [ihdiag, hdiag, List.append_assoc, List.filterMap_eq_flatMap_toList, List.filterMap_eq_flatMap_toList,
        List.flatMap_cons]

/-- Settles O26: the run is `State.fed`, and the stream is fed run by run from the reset state. -/
theorem wholeStreamDecomposition : Obligations.WholeStreamDecomposition := by
  intro c runs tail hu hruns htail bytes
  have hrun := run_eq_fed (s := (State.resetWith c).withAgenda (bytes.map HostMove.byte)) (ms := []) hu rfl
    (List.append_nil _).symm
  obtain ⟨hout, hdiag, hheld, href⟩ := State.fed_joinRuns runs htail (betweenFrames_resetWith c) hruns
  refine ⟨_, hrun, hout, hdiag, ?_, State.fed_agenda _ _, href, fun hform => ?_⟩
  · rw [State.fed_pos]; exact Nat.zero_add _
  · rw [← State.held_streaming (by rw [State.fed_cfg]; exact hform)]
    exact hheld

/-! ### A sentinel resynchronises -/

/-- A block with the traces, the count and the host side of `base` ahead of its own. -/
def State.behind (base s : State) : State :=
  { s with
    outq := base.outq ++ s.outq
    diagq := base.diagq ++ s.diagq
    events := base.events ++ s.events
    pos := base.pos + s.pos
    agenda := base.agenda
    outTaken := base.outTaken
    diagTaken := base.diagTaken
    past := base.past }

/-- A byte does to such a block what it does to the block alone: it reads nothing of what stands ahead. -/
theorem State.fedByte_behind (base s : State) (b : Byte) :
    (State.behind base s).fedByte b = State.behind base (s.fedByte b) := by
  by_cases hb : b = sentinel
  · have hframe : (State.behind base s).frameNow = s.frameNow := rfl
    rw [hb, State.fedByte_sentinel, State.fedByte_sentinel, State.deliver_eq, State.deliver_eq, hframe]
    simp [State.behind, State.consumed, Nat.add_assoc]
  · have hform : (State.behind base s).cfg.form = s.cfg.form := rfl
    rw [State.fedByte_other _ hb, State.fedByte_other _ hb]
    cases h : s.cfg.form with
    | reference => rw [State.taken_reference h, State.taken_reference (hform.trans h)]; rfl
    | streaming => rw [State.taken_streaming h, State.taken_streaming (hform.trans h)]; rfl

theorem State.fed_behind (base s : State) (bytes : List Byte) :
    (State.behind base s).fed bytes = State.behind base (s.fed bytes) := by
  induction bytes generalizing s with
  | nil => rfl
  | cons b bs ih => rw [State.fed_cons, State.fedByte_behind, ih, State.fed_cons]

/-- After a sentinel the block is a freshly reset one behind what it has already given. -/
theorem deliver_eq_behind_reset {s : State} (ht : s.torn = false) :
    s.deliver.consumed = State.behind s.deliver.consumed (State.resetWith s.cfg) := by
  rw [State.deliver_eq]
  simp [State.behind, State.consumed, State.resetWith, ht]

/-- Settles O30: both feeds are `State.fed`, and the first is the second behind the traces of the sentinel's step. -/
theorem sentinelResynchronises : Obligations.SentinelResynchronises := by
  intro s t bytes hu hst
  cases ht : s.torn with
  | true => rw [byteStep_torn ht] at hst; cases hst
  | false =>
    rw [byteStep_eq_fedByte hu ht, State.fedByte_sentinel] at hst
    injection hst with heq
    have hbehind : t = State.behind t (State.resetWith s.cfg) := by rw [← heq]; exact deliver_eq_behind_reset ht
    have hu' : t.cfg.Unbounded := by rw [hbehind]; exact hu
    have ht' : t.torn = false := by rw [hbehind]; rfl
    have hfed : t.fed bytes = State.behind t ((State.resetWith s.cfg).fed bytes) := by
      rw [← State.fed_behind, ← hbehind]
    refine ⟨_, _, feed_eq_fed bytes hu' ht', feed_eq_fed (s := State.resetWith s.cfg) bytes hu rfl, ?_⟩
    rw [hfed]
    exact ⟨rfl, rfl, rfl, rfl, rfl, rfl⟩

/-! ### One frame -/

theorem unescape_stuff (p : List Byte) : unescape (stuff p) = { out := p, esc := false } :=
  Pass.over_stuff p Pass.start_esc

theorem frameResult_stuff (m : TrailerMode) (p : List Byte) : frameResult m (stuff p) = frameResultOf m p := by
  rw [frameResult, unescape_stuff]

/-- `FRAME_RAW` closes an empty run and then the stuffed frame (rule R67). -/
theorem frameRaw_eq_joinRuns (p : Payload) (t0 t1 : Byte) :
    frameRaw p t0 t1 = joinRuns [[], stuff (p ++ [t0, t1])] [] := by
  simp [frameRaw]

theorem frameResult_nil (m : TrailerMode) : frameResult m [] = { diag := none, out := none, verdict := .undersized } :=
  frameResultOf_short m (Nat.zero_lt_two)

/-- In mode A the trailer of `FRAME_B` is the high byte of the CRC, which is the CRC only when both are 0. -/
theorem eq_zext16_highByte_iff (w : Word16) : w = zext16 (highByte w) ↔ w = 0x0000#16 := by
  have hw := w.isLt
  rw [← BitVec.toNat_inj, ← BitVec.toNat_inj (y := 0x0000#16), zext16_toNat, highByte_toNat, BitVec.toNat_ofNat]
  omega

/-- A frame gives no record just when the two words are equal (rule R93). -/
theorem frameResultOf_diag_eq_none_iff (m : TrailerMode) (p : Payload) (t0 t1 : Byte) :
    (frameResultOf m (p ++ [t0, t1])).diag = none ↔ crc16 p = decodeTrailer m ⟨t0, t1⟩ := by
  rw [frameResultOf_append]
  split_ifs with h <;> simp [h]

/-- From between two frames, `FRAME_RAW` gives what `FrameResult` says of its payload and trailer. -/
theorem State.fed_frameRaw {s : State} (hs : s.BetweenFrames) (p : Payload) (t0 t1 : Byte) :
    (s.fed (frameRaw p t0 t1)).outq = s.outq ++ (frameResultOf s.cfg.trailerMode (p ++ [t0, t1])).out.toList ∧
    (s.fed (frameRaw p t0 t1)).diagq = s.diagq ++ (frameResultOf s.cfg.trailerMode (p ++ [t0, t1])).diag.toList := by
  have hruns : ∀ r ∈ [[], stuff (p ++ [t0, t1])], sentinel ∉ r := by simp [sentinel_notMem_stuff]
  obtain ⟨hout, hdiag, -⟩ := State.fed_joinRuns _ (List.not_mem_nil : sentinel ∉ []) hs hruns
  rw [frameRaw_eq_joinRuns, hout, hdiag]
  simp [List.filterMap_eq_flatMap_toList, frameResult_nil, frameResult_stuff]

/-- Settles O31: the payload is emitted, and that no record is raised is the comparison of each mode. -/
theorem matchingFrameIsDeliveredExactly : Obligations.MatchingFrameIsDeliveredExactly := by
  intro s p hu ht habuf hubuf hesc hp
  obtain ⟨hout, hdiag⟩ := State.fed_frameRaw ⟨habuf, hubuf, hesc⟩ p (lowByte (crc16 p)) (highByte (crc16 p))
  obtain ⟨habuf', hubuf', hesc'⟩ :=
    betweenFrames_fed_sentinel s (sentinel :: stuff (p ++ [lowByte (crc16 p), highByte (crc16 p)]))
  have hquiet : (s.fed (frameB p)).diagq = s.diagq ↔
      crc16 p = decodeTrailer s.cfg.trailerMode ⟨lowByte (crc16 p), highByte (crc16 p)⟩ := by
    rw [frameB, hdiag, ← frameResultOf_diag_eq_none_iff]
    simp
  rw [frameResultOf_append, if_neg hp] at hout
  refine ⟨_, feed_eq_fed (frameB p) hu ht, hout, habuf', hubuf', hesc', fun hmode => ?_, fun hmode => ?_⟩
  · rw [hquiet, hmode]
    exact (eq_cat16_iff _ _ _).2 ⟨rfl, rfl⟩
  · rw [hquiet, hmode]
    exact eq_zext16_highByte_iff (crc16 p)

/-- What is emitted of a frame, as a cut of it. -/
theorem frameResultOf_out (m : TrailerMode) (frame : List Byte) :
    (frameResultOf m frame).out = if 3 ≤ frame.length then some (frame.take (frame.length - 2)) else none := by
  split
  · next h =>
    obtain ⟨hshort, -⟩ | ⟨p, t0, t1, rfl, -⟩ := frame_cases frame
    · omega
    · have hp : p ≠ [] := by rintro rfl; simp at h
      simp [frameResultOf_append, hp]
  · next h => exact frameResultOf_out_eq_none m (Nat.lt_of_not_le h)

/-- Settles O32: the run is its own frame. -/
theorem literalRunLosesItsLastTwoBytes : Obligations.LiteralRunLosesItsLastTwoBytes := by
  intro s buf hu ht habuf hubuf hesc hsentinel hmarker
  have hframe : (unescape buf).out = buf := by rw [unescape, Pass.over_literal hmarker Pass.start_esc]; rfl
  obtain ⟨hout, -⟩ := State.fed_closed ⟨habuf, hubuf, hesc⟩ hsentinel
  refine ⟨_, feed_eq_fed _ hu ht, ?_⟩
  rw [hout, frameResult, hframe, frameResultOf_out]
  split <;> rfl

end Sys2Proof.Machine
end
